-- ==== Sys2Proof/Word.lean ====
section
/-! DEFINITION. The machine's words: 256-bit ports and ROM entries, 32-bit tick results (00_scope.md rules R6, R8, R9). -/

namespace Sys2Proof

/-- A 256-bit pattern: an operand, a result, a ROM entry or a datapath value (rule R6). -/
abbrev Word := BitVec 256

/-- A candidate tick, 32 bits in two's complement (rule R6). -/
abbrev Tick32 := BitVec 32

end Sys2Proof
end

