-- ==== Sys2Proof/Syntax.lean ====
section
/-! DEFINITION. Requests as bits and the three operations as terms (30_encoding.md rules R60 to R65; every row of spec/opcode_table.json is a constructor of Instr). -/

namespace Sys2Proof

/-- A request as the channel carries it: command word and operand (rule R60, 10_state.md rule R26). -/
structure Request where
  cmd : BitVec 32
  opd : Word
deriving DecidableEq, Repr

/-- The operations of rule R61. Each keeps its whole operand pattern; a meaning reads it as rule R63 says. -/
inductive Instr where
  /-- `T2P`, opcode 0x01: tick to square-root price. -/
  | t2p (opd : Word)
  /-- `P2T`, opcode 0x02: square-root price to tick. -/
  | p2t (opd : Word)
  /-- `RDC`, opcode 0x03: read ROM entry `idx`; `opd` is carried and not read (rule R63). -/
  | rdc (idx : BitVec 8) (opd : Word)
deriving DecidableEq, Repr

/-- Why an encoding names no operation: the four cases of rule R68. -/
inductive DecodeError where
  /-- Case (a): `OP` is none of 0x01, 0x02, 0x03. -/
  | reservedOpcode
  /-- Case (b): `RSV` is not zero. -/
  | reservedFieldNonZero
  /-- Case (c): `IDX` is not zero with T2P or P2T. -/
  | indexNonZero
  /-- Case (d): `IDX` is above 26 with RDC. -/
  | romIndexOutOfRange
deriving DecidableEq, Repr

end Sys2Proof
end

