-- ==== Sys2Proof/WellFormed.lean ====
section
/-! DEFINITION. Which terms of Instr have an encoding (30_encoding.md rules R62 and R68). -/

namespace Sys2Proof

/-- `IDX` values that name a ROM entry: 0..26 (rule R62). -/
def romIndexOk (idx : BitVec 8) : Bool := decide (idx.toNat ≤ 26)

/-- Every operand pattern is legal (rules R64, R65); the one check is RDC's index (rule R68(d)). -/
def Instr.wellFormed : Instr → Bool
  | .t2p _ => true
  | .p2t _ => true
  | .rdc idx _ => romIndexOk idx

end Sys2Proof
end

