-- ==== Sys2Proof/Decode.lean ====
section
/-! DEFINITION. The decoder, total on every 32-bit command and 256-bit operand, and after it the encoder (30_encoding.md rules R60 to R70). -/

namespace Sys2Proof

/-- `OP = CMD[7:0]` (rule R60). -/
def opField (cmd : BitVec 32) : BitVec 8 := cmd.extractLsb' 0 8

/-- `IDX = CMD[15:8]` (rules R60, R62). -/
def idxField (cmd : BitVec 32) : BitVec 8 := cmd.extractLsb' 8 8

/-- `RSV = CMD[31:16]` (rule R60). -/
def rsvField (cmd : BitVec 32) : BitVec 16 := cmd.extractLsb' 16 16

/-- The checks of `Exec` in rule R69, in its order, up to the call of the operation. -/
def decode (r : Request) : Except DecodeError Instr :=
  if rsvField r.cmd ≠ 0#16 then .error .reservedFieldNonZero
  else if opField r.cmd = 0x01#8 then
    if idxField r.cmd ≠ 0#8 then .error .indexNonZero else .ok (.t2p r.opd)
  else if opField r.cmd = 0x02#8 then
    if idxField r.cmd ≠ 0#8 then .error .indexNonZero else .ok (.p2t r.opd)
  else if opField r.cmd = 0x03#8 then
    if romIndexOk (idxField r.cmd) then .ok (.rdc (idxField r.cmd) r.opd) else .error .romIndexOutOfRange
  else .error .reservedOpcode

/-- A command word from `OP` and `IDX`, with `RSV` zero (rule R60). -/
def commandWord (op idx : BitVec 8) : BitVec 32 := (idx.setWidth 32 <<< 8) ||| op.setWidth 32

/-- The request that names an operation (rules R60 and R61). -/
def encode : Instr → Request
  | .t2p opd => ⟨commandWord 0x01#8 0#8, opd⟩
  | .p2t opd => ⟨commandWord 0x02#8 0#8, opd⟩
  | .rdc idx opd => ⟨commandWord 0x03#8 idx, opd⟩

/-- The low `nbits` bits of a number, all that a request of 288 bits can hold. -/
def lowBits (nbits w : Nat) : Nat := if 288 ≤ nbits then w else w % 2 ^ nbits

/-- A request from one number that holds the command word in bits 31..0 and the operand in bits 287..32,
the `nbits` low bits of which are given and the rest 0 (assumption log 13). -/
def requestOfNat (nbits w : Nat) : Request :=
  ⟨BitVec.ofNat 32 (lowBits nbits w), BitVec.ofNat 256 (lowBits nbits w / 2 ^ 32)⟩

/-- What the decoder reads from a word numbered as spec/opcode_table.json numbers its rows. -/
def decodeTableWord (nbits w : Nat) : Option Instr :=
  match decode (requestOfNat nbits w) with
  | .ok i => some i
  | .error _ => none

end Sys2Proof
end

