-- ==== Sys2Proof/Config.lean ====
section
/-! DEFINITION. What is fixed for one engine: the ROM's contents, the hardwired datapath constants, the spec's open parameters and the free values. -/

namespace Sys2Proof.Config

/-- The ROM in index order (20_memory.md rule R40): K[0..19] (rule R41), MIN_TICK, MAX_TICK, MIN_SQRT_RATIO,
MAX_SQRT_RATIO (rule R42), SQRT_10001, TICK_LOW_ERR, TICK_HIGH_ERR (rule R43). Assumption log 11. -/
def romImage : Vector Word 27 :=
  #v[
    0xfffcb933bd6fad37aa2d162d1a594001#256,
    0xfff97272373d413259a46990580e213a#256,
    0xfff2e50f5f656932ef12357cf3c7fdcc#256,
    0xffe5caca7e10e4e61c3624eaa0941cd0#256,
    0xffcb9843d60f6159c9db58835c926644#256,
    0xff973b41fa98c081472e6896dfb254c0#256,
    0xff2ea16466c96a3843ec78b326b52861#256,
    0xfe5dee046a99a2a811c461f1969c3053#256,
    0xfcbe86c7900a88aedcffc83b479aa3a4#256,
    0xf987a7253ac413176f2b074cf7815e54#256,
    0xf3392b0822b70005940c7a398e4b70f3#256,
    0xe7159475a2c29b7443b29c7fa6e889d9#256,
    0xd097f3bdfd2022b8845ad8f792aa5825#256,
    0xa9f746462d870fdf8a65dc1f90e061e5#256,
    0x70d869a156d2a1b890bb3df62baf32f7#256,
    0x31be135f97d08fd981231505542fcfa6#256,
    0x9aa508b5b7a84e1c677de54f3e99bc9#256,
    0x5d6af8dedb81196699c329225ee604#256,
    0x2216e584f5fa1ea926041bedfe98#256,
    0x48a170391f7dc42444e8fa2#256,
    0xfffffffffffffffffffffffffffffffffffffffffffffffffffffffffff27618#256,
    0xd89e8#256,
    0x1000276a3#256,
    0xfffd8963efd1fc6a506488495d951d5263988d26#256,
    0x3627a301d71055774c85#256,
    0x28f6481ab7f045a5af012a19d003aaa#256,
    0xdb2df09e81959a81455e260799a0632f#256
  ]

/-- `ONE_Q128`, the Q128 form of 1.0 (20_memory.md rule R46). -/
def oneQ128 : Word := 0x100000000000000000000000000000000#256

/-- `UINT256_MAX`, the dividend of the reciprocal trick (20_memory.md rule R46). -/
def uint256Max : Word := BitVec.allOnes 256

/-- The rounding mask `2^32 - 1` (20_memory.md rule R46). -/
def roundMask : Word := 0xFFFFFFFF#256

/-- The shift amounts `2^k` of the bit-length search beside their thresholds, `r > 2^(2^k) - 1`, for k = 7 down to 1
(20_memory.md rule R46, 41_price_to_tick.md rule R103). The eighth threshold is the last step's `r > 1`. -/
def searchSteps : List (Word × Word) :=
  [(128#256, 0xffffffffffffffffffffffffffffffff#256), (64#256, 0xffffffffffffffff#256), (32#256, 0xffffffff#256),
   (16#256, 0xffff#256), (8#256, 0xff#256), (4#256, 0xf#256), (2#256, 0x3#256)]

/-- `LAT_T2P` less one: an open parameter with `LAT_T2P ≥ 1` (00_scope.md rule R7). Assumption log 3. -/
opaque latT2PPred : Nat

/-- `LAT_P2T` less one (00_scope.md rule R7). Assumption log 3. -/
opaque latP2TPred : Nat

/-- `LAT_RDC` less one (00_scope.md rule R7). Assumption log 3. -/
opaque latRDCPred : Nat

/-- `MAX_INFLIGHT` less one (00_scope.md rule R7). Assumption log 4. -/
opaque maxInflightPred : Nat

/-- `RESET_CYCLES ≥ 0` (00_scope.md rule R7). Assumption log 5. -/
opaque resetCycles : Nat

/-- `N_INSTANCES` less one (00_scope.md rule R7). Assumption log 12. -/
opaque nInstancesPred : Nat

/-- `LAT_T2P` (70_reset_and_hazards.md rule R166). -/
def latT2P : Nat := latT2PPred + 1

/-- `LAT_P2T` (70_reset_and_hazards.md rule R166). -/
def latP2T : Nat := latP2TPred + 1

/-- `LAT_RDC` (70_reset_and_hazards.md rule R166). -/
def latRDC : Nat := latRDCPred + 1

/-- `MAX_INFLIGHT` (70_reset_and_hazards.md rule R165). -/
def maxInflight : Nat := maxInflightPred + 1

/-- `N_INSTANCES` (60_exceptions.md rule R153). -/
def nInstances : Nat := nInstancesPred + 1

/-- FREE VALUE: how many cycles beyond `LAT_op` the response of a request takes ("no earlier than", rule R166). Assumption log 3. -/
opaque extraDelay : Nat → Nat

/-- FREE VALUE: `rsp_status` while `rsp_valid = 0` (10_state.md rule R31). Assumption log 6. -/
opaque idleStatus : Nat → BitVec 2

/-- FREE VALUE: `rsp_result` while `rsp_valid = 0` (10_state.md rule R31). Assumption log 6. -/
opaque idleResult : Nat → Word

end Sys2Proof.Config
end

