-- ==== Sys2Proof/Machine/State.lean ====
section
/-! DEFINITION. The engine's state as plain data, its events, the reasons a step can stop, and the state after reset (10_state.md rules R25 to R31). -/

namespace Sys2Proof.Machine

/-- The input ports between two clock edges (10_state.md rule R25). -/
structure Pins where
  rst : Bool
  reqValid : Bool
  reqCmd : BitVec 32
  reqOpd : Word
  rspReady : Bool
deriving DecidableEq, Repr

/-- A host that does nothing: every input port 0. DESIGN CHOICE, assumption log 2. -/
def Pins.idle : Pins := ⟨false, false, 0#32, 0#256, false⟩

/-- The four status names of 30_encoding.md rule R66. -/
inductive Status where
  | ok
  | tickOutOfRange
  | priceOutOfRange
  | illegalRequest
deriving DecidableEq, Repr

/-- A response: status and result (30_encoding.md rule R66). -/
structure Response where
  status : Status
  result : Word
deriving DecidableEq, Repr

/-- An accepted request whose response has not been taken (rule R26), and how many edges must still pass before its
response may become valid (70_reset_and_hazards.md rule R166, assumption log 3). -/
structure Slot where
  req : Request
  wait : Nat
deriving DecidableEq, Repr

/-- `phase` of rule R26. -/
inductive Phase where
  | reset
  | warmup (n : Nat)
  | run
deriving DecidableEq, Repr

/-- What a host sees happen on the two channels, and resets: the steps of 70_reset_and_hazards.md rule R170. -/
inductive Event where
  /-- A request was accepted (rule R163). -/
  | accept (req : Request)
  /-- A response was taken (rule R164). -/
  | respond (rsp : Response)
  /-- An edge with `rst = 1` (rule R160). -/
  | reset
deriving DecidableEq, Repr

/-- The engine (rule R26: `rom`, `inflight`, `phase`), the host's future pins, and the model's own record and counter. -/
structure State where
  rom : Vector Word 27
  inflight : List Slot
  phase : Phase
  inputs : List Pins
  log : List Event
  fresh : Nat
deriving DecidableEq, Repr

/-- Why a meaning can stop. The spec gives the engine no fault (60_exceptions.md rules R143, R144). -/
inductive Fault where
  /-- Raised by a meaning that is called when no request is in flight, where rule R170 has no respond step. Safe:
  `step` calls a meaning only for the request at the head of the queue. Assumption log 8. -/
  | nothingInFlight
deriving DecidableEq, Repr

/-- Why the model can refuse. -/
inductive Refusal where
  /-- Raised by an arm of `exec` whose instruction has no meaning yet; no arm of this model does. Safe. -/
  | notModelled (mnemonic : String)
deriving DecidableEq, Repr

/-- The machine right after `rst` has fallen (rule R31): warm-up ahead, nothing in flight, the ROM as it always is, a
host that has nothing planned. The values of `inputs`, `log` and `fresh` are the model's (assumption log 2, 7). -/
def State.reset : State where
  rom := Config.romImage
  inflight := []
  phase := .warmup Config.resetCycles
  inputs := []
  log := []
  fresh := 0

end Sys2Proof.Machine
end

