-- ==== Sys2Proof/Machine/Operands.lean ====
section
/-! DEFINITION. Operand assembly, ROM reads and the arithmetic primitives (00_scope.md rules R9 to R11, 20_memory.md rule R40, 30_encoding.md rules R62 to R65). -/

namespace Sys2Proof.Machine

/-- T2P's operand: the whole pattern as two's complement (rules R63, R64). -/
def tickOperand (opd : Word) : Int := opd.toInt

/-- P2T's operand: the whole pattern, read as unsigned by every use of it (rules R63, R65). -/
def priceOperand (opd : Word) : Word := opd

/-- `ROM(i)` (20_memory.md rule R40). -/
def romEntry (rom : Vector Word 27) (i : Fin 27) : Word := rom[i]

/-- `K[i]`, ROM indices 0..19. -/
def romK (rom : Vector Word 27) (i : Fin 20) : Word := romEntry rom (Fin.castLE (by decide) i)

/-- `MAX_TICK`, ROM index 21, a signed entry. -/
def romMaxTick (rom : Vector Word 27) : Int := (romEntry rom 21).toInt

/-- `MIN_SQRT_RATIO`, ROM index 22. -/
def romMinSqrtRatio (rom : Vector Word 27) : Word := romEntry rom 22

/-- `MAX_SQRT_RATIO`, ROM index 23. -/
def romMaxSqrtRatio (rom : Vector Word 27) : Word := romEntry rom 23

/-- `SQRT_10001`, ROM index 24. -/
def romSqrt10001 (rom : Vector Word 27) : Word := romEntry rom 24

/-- `TICK_LOW_ERR`, ROM index 25. -/
def romTickLowErr (rom : Vector Word 27) : Word := romEntry rom 25

/-- `TICK_HIGH_ERR`, ROM index 26. -/
def romTickHighErr (rom : Vector Word 27) : Word := romEntry rom 26

/-- RDC's read: the entry `IDX` names, if there is one (30_encoding.md rule R62). -/
def romRead (rom : Vector Word 27) (idx : BitVec 8) : Option Word := rom[idx.toNat]?

/-- `a *w b` and, on two's complement patterns, `a *ws b` (rule R10): the product modulo 2^256. -/
def mulWrap (a b : Word) : Word := a * b

/-- `asr(a, n)` (rule R10). -/
def asr (a : Word) (n : Nat) : Word := a.sshiftRight n

/-- `low32` of a 256-bit pattern (rule R9). -/
def low32 (a : Word) : Tick32 := a.setWidth 32

/-- `sext_256` of a 32-bit pattern (rule R9). -/
def sext256 (a : Tick32) : Word := a.signExtend 256

end Sys2Proof.Machine
end

