-- ==== Sys2Proof/Machine/Flags.lean ====
section
/-! DEFINITION. The engine has no flags (10_state.md rule R22); the one status a host observes is that of a response. This file decides it: codes, range checks and response forms (30_encoding.md rules R66, R67). -/

namespace Sys2Proof.Machine

/-- The 2-bit code on `rsp_status` (rule R66). -/
def Status.code : Status → BitVec 2
  | .ok => 0b00#2
  | .tickOutOfRange => 0b01#2
  | .priceOutOfRange => 0b10#2
  | .illegalRequest => 0b11#2

/-- `return v` (00_scope.md rule R11). -/
def okResponse (v : Word) : Response := ⟨.ok, v⟩

/-- An error: its status and the result 0 (rule R67, 60_exceptions.md rule R144). -/
def errorResponse (e : Status) : Response := ⟨e, 0#256⟩

/-- T2P's range check on the magnitude of the full operand (40_tick_to_price.md rule R81). -/
def tickInRange (rom : Vector Word 27) (t : Int) : Bool := decide ((t.natAbs : Int) ≤ romMaxTick rom)

/-- P2T's range check, upper bound exclusive (41_price_to_tick.md rule R101). -/
def priceInRange (rom : Vector Word 27) (p : Word) : Bool :=
  decide (romMinSqrtRatio rom ≤ p) && decide (p < romMaxSqrtRatio rom)

end Sys2Proof.Machine
end

