-- ==== Sys2Proof/Machine/Ops.lean ====
section
/-! DEFINITION. The shared operations: the channels' signals, answering the oldest request, and what a clock edge does (70_reset_and_hazards.md rules R160 to R170). -/

namespace Sys2Proof.Machine

/-! ### Signals -/

/-- The input ports before the next edge. Assumption log 2. -/
def State.pins (s : State) : Pins := s.inputs.headD Pins.idle

/-- Warm-up with `n` cycles to go; none to go is `Run` (rule R161). -/
def Phase.warm : Nat → Phase
  | 0 => .run
  | n + 1 => .warmup (n + 1)

/-- `phase` in the present cycle: `Reset` while `rst = 1`, then `Warmup RESET_CYCLES`, then `Run` (10_state.md rule R31).
Assumption log 5, 16. -/
def State.phaseNow (s : State) : Phase :=
  if s.pins.rst then .reset
  else match s.phase with
    | .reset => Phase.warm Config.resetCycles
    | .warmup n => Phase.warm n
    | .run => .run

/-- `req_ready` (rules R160, R161, R165). -/
def State.reqReady (s : State) : Bool :=
  decide (s.phaseNow = .run) && decide (s.inflight.length < Config.maxInflight)

/-- The oldest request is in flight and has waited long enough (rules R164, R166). -/
def State.headDue (s : State) : Bool :=
  match s.inflight with
  | [] => false
  | slot :: _ => decide (slot.wait = 0)

/-- `rsp_valid` (rules R160, R164). -/
def State.rspValid (s : State) : Bool := decide (s.phaseNow = .run) && s.headDue

/-- The request the next edge accepts, if any (rule R163). -/
def State.accepted (s : State) : Option Request :=
  if s.pins.reqValid && s.reqReady then some ⟨s.pins.reqCmd, s.pins.reqOpd⟩ else none

/-- The next edge takes the offered response (10_state.md rule R25, rule R164). -/
def State.rspTaken (s : State) : Bool := s.pins.rspReady && s.rspValid

/-! ### Answering -/

/-- Respond: deliver a response for the oldest request and remove it (rule R170). An error status is delivered the same
way; it saves nothing and changes nothing else (60_exceptions.md rule R144). -/
def State.answer (rsp : Response) (s : State) : Host.Outcome State Fault Refusal :=
  match s.inflight with
  | [] => .fault .nothingInFlight
  | _ :: rest => .next { s with inflight := rest, log := s.log ++ [.respond rsp] }

/-- The response to an encoding that names no operation (30_encoding.md rule R68, 60_exceptions.md rule R142). -/
def illegalResponse : Response := errorResponse .illegalRequest

/-- Respond to an illegal request. -/
def answerIllegal (s : State) : Host.Outcome State Fault Refusal := s.answer illegalResponse

/-- The operation the oldest request names, or why it names none. -/
def State.fetch (s : State) : Option (Except DecodeError Instr) :=
  match s.inflight with
  | [] => none
  | slot :: _ => some (decode slot.req)

/-! ### The edge -/

/-- `LAT_op` of a request; an illegal one uses `LAT_RDC` (rule R166). -/
def latencyOf (r : Request) : Nat :=
  match decode r with
  | .ok (.t2p _) => Config.latT2P
  | .ok (.p2t _) => Config.latP2T
  | .ok (.rdc _ _) => Config.latRDC
  | .error _ => Config.latRDC

/-- A request as it enters the queue. Assumption log 3. -/
def newSlot (fresh : Nat) (r : Request) : Slot := ⟨r, latencyOf r + Config.extraDelay fresh⟩

/-- One edge brings every waiting request one cycle nearer to its response. -/
def Slot.tick (slot : Slot) : Slot := ⟨slot.req, slot.wait - 1⟩

/-- The phase an edge with `rst = 0` leaves (rule R161). -/
def Phase.next : Phase → Phase
  | .reset => .reset
  | .warmup n => Phase.warm (n - 1)
  | .run => .run

/-- What an edge with `rst = 0` does beside answering: it ages the queue, appends the request that `s` accepts (rules
R163, R165) and moves the phase. `s` is the state before the edge, `t` the same state after any answer. -/
def State.closeEdge (s t : State) : State where
  rom := t.rom
  inflight := t.inflight.map Slot.tick ++ (s.accepted.map (newSlot s.fresh)).toList
  phase := s.phaseNow.next
  inputs := s.inputs.tail
  log := t.log ++ (s.accepted.map Event.accept).toList
  fresh := s.fresh + 1

/-- `closeEdge` after a meaning. -/
def State.closeOutcome (s : State) : Host.Outcome State Fault Refusal → Host.Outcome State Fault Refusal
  | .next t => .next (s.closeEdge t)
  | .fault e => .fault e
  | .refused e => .refused e

/-- An edge with `rst = 1`: every request in flight is dropped, the ROM is not touched (rule R160). -/
def State.resetEdge (s : State) : State where
  rom := s.rom
  inflight := []
  phase := .reset
  inputs := s.inputs.tail
  log := s.log ++ [.reset]
  fresh := s.fresh + 1

end Sys2Proof.Machine
end

