-- ==== Sys2Proof/Machine/TickToPrice.lean ====
section
/-! DEFINITION. T2P, the tick-to-price multiplier chain (40_tick_to_price.md rules R80 to R91). -/

namespace Sys2Proof.Machine

/-- The initial accumulator (rule R83). -/
def initialRatio (rom : Vector Word 27) (absTick : Nat) : Word :=
  if absTick.testBit 0 then romK rom 0 else Config.oneQ128

/-- One step of the chain: the wrapping product, then a logical shift by 128 (rule R84). -/
def chainStep (rom : Vector Word 27) (absTick : Nat) (ratio : Word) (i : Fin 20) : Word :=
  if absTick.testBit i.val then mulWrap ratio (romK rom i) >>> 128 else ratio

/-- Bit positions 1 to 19 in increasing order (rule R84). -/
def chainOrder : List (Fin 20) := [1, 2, 3, 4, 5, 6, 7, 8, 9, 10, 11, 12, 13, 14, 15, 16, 17, 18, 19]

/-- The accumulator after the first `n` steps of the chain. -/
def ratioAfter (rom : Vector Word 27) (absTick n : Nat) : Word :=
  (chainOrder.take n).foldl (chainStep rom absTick) (initialRatio rom absTick)

/-- The accumulator after the whole chain. -/
def chainRatio (rom : Vector Word 27) (absTick : Nat) : Word := ratioAfter rom absTick 19

/-- The reciprocal trick, for positive ticks only (rule R85). -/
def reciprocal (t : Int) (ratio : Word) : Word := if 0 < t then Config.uint256Max / ratio else ratio

/-- Q128 to Q96, rounding up (rule R86). -/
def roundToQ96 (ratio : Word) : Word :=
  (ratio >>> 32) + (if ratio &&& Config.roundMask ≠ 0#256 then 1#256 else 0#256)

/-- `sqrtPriceX96` of a tick in range (rules R82 to R86). -/
def sqrtPriceOf (rom : Vector Word 27) (t : Int) : Word := roundToQ96 (reciprocal t (chainRatio rom t.natAbs))

/-- `T2P_op` (rule R80). -/
def t2pOp (rom : Vector Word 27) (t : Int) : Response :=
  if tickInRange rom t then okResponse (sqrtPriceOf rom t) else errorResponse .tickOutOfRange

/-- The meaning of T2P: respond with `T2P_op(sint(OPD))` (rules R80, R87; 30_encoding.md rule R69). -/
def execT2P (opd : Word) (s : State) : Host.Outcome State Fault Refusal := s.answer (t2pOp s.rom (tickOperand opd))

end Sys2Proof.Machine
end

