-- ==== Sys2Proof/Machine/PriceToTick.lean ====
section
/-! DEFINITION. P2T, the price-to-tick logarithm approximator and rounding resolver (41_price_to_tick.md rules R100 to R114). -/

namespace Sys2Proof.Machine

/-! ### Bit length (rule R103) -/

/-- One search step on `(r, msb)`, for a shift amount and its threshold. -/
def searchStep (rm : Word × Word) (c : Word × Word) : Word × Word :=
  let f : Word := if rm.1 > c.2 then c.1 else 0#256
  (rm.1 >>> f, rm.2 ||| f)

/-- `msb` by eight fixed steps. -/
def bitLengthSearch (ratio : Word) : Word :=
  let rm := Config.searchSteps.foldl searchStep (ratio, 0#256)
  rm.2 ||| (if rm.1 > 1#256 then 1#256 else 0#256)

/-! ### The logarithm -/

/-- The Q127 working value (rule R104). -/
def normalise (ratio msb : Word) : Word :=
  if msb ≥ 128#256 then ratio >>> (msb - 127#256) else ratio <<< (127#256 - msb)

/-- The integer part of `log_2` in Q64, a signed pattern (rule R105). -/
def log2Init (msb : Word) : Word := mulWrap (msb - 128#256) 0x10000000000000000#256

/-- `(r *w r) >> 127` (rules R106, R107). -/
def squareQ127 (r : Word) : Word := mulWrap r r >>> 127

/-- One fraction step on `(r, log_2)` for a bit position (rule R106). -/
def fractionStep (rl : Word × Word) (bit : Nat) : Word × Word :=
  let r := squareQ127 rl.1
  let f := r >>> 128
  (r >>> f, rl.2 ||| (f <<< bit))

/-- Bit positions 63 down to 51 (rule R106). -/
def fractionBits : List Nat := [63, 62, 61, 60, 59, 58, 57, 56, 55, 54, 53, 52, 51]

/-- `(r, log_2)` after the first `n` fraction steps. -/
def fractionAfter (r log2 : Word) (n : Nat) : Word × Word := (fractionBits.take n).foldl fractionStep (r, log2)

/-- The final squaring, bit 50, with no shift of `r` (rule R107). -/
def finalSquaring (rl : Word × Word) : Word := rl.2 ||| ((squareQ127 rl.1 >>> 128) <<< 50)

/-! ### The candidates -/

/-- `tickLow` (rule R109). -/
def tickLowOf (rom : Vector Word 27) (logSqrt : Word) : Tick32 := low32 (asr (logSqrt - romTickLowErr rom) 128)

/-- `tickHigh` (rule R109). -/
def tickHighOf (rom : Vector Word 27) (logSqrt : Word) : Tick32 := low32 (asr (logSqrt + romTickHighErr rom) 128)

/-- The transient datapath values of one P2T, by the spec's names (10_state.md rule R28). -/
structure P2TPath where
  ratio : Word
  msb : Word
  r : Word
  log2 : Word
  logSqrt10001 : Word
  tickLow : Tick32
  tickHigh : Tick32
deriving DecidableEq, Repr

/-- `ratio` (rule R102). -/
def widen (p : Word) : Word := p <<< 32

/-- Rules R102 to R109 for a price. -/
def p2tPath (rom : Vector Word 27) (p : Word) : P2TPath :=
  let ratio := widen p
  let msb := bitLengthSearch ratio
  let r := normalise ratio msb
  let log2 := finalSquaring (fractionAfter r (log2Init msb) 13)
  let logSqrt := mulWrap log2 (romSqrt10001 rom)
  ⟨ratio, msb, r, log2, logSqrt, tickLowOf rom logSqrt, tickHighOf rom logSqrt⟩

/-- The choice between the candidates (rule R110). The sub-operation is evaluated where they differ; a status other
than OK would be handed up (60_exceptions.md rule R145). -/
def resolve (rom : Vector Word 27) (p : Word) (tickLow tickHigh : Tick32) : Response :=
  if tickLow = tickHigh then okResponse (sext256 tickLow)
  else
    let sub := t2pOp rom tickHigh.toInt
    if sub.status ≠ .ok then errorResponse sub.status
    else if sub.result ≤ p then okResponse (sext256 tickHigh)
    else okResponse (sext256 tickLow)

/-- `P2T_op` (rule R100). -/
def p2tOp (rom : Vector Word 27) (p : Word) : Response :=
  if priceInRange rom p then resolve rom p (p2tPath rom p).tickLow (p2tPath rom p).tickHigh
  else errorResponse .priceOutOfRange

/-- The meaning of P2T: respond with `P2T_op(uint(OPD))` (rules R100, R111; 30_encoding.md rule R69). -/
def execP2T (opd : Word) (s : State) : Host.Outcome State Fault Refusal := s.answer (p2tOp s.rom (priceOperand opd))

end Sys2Proof.Machine
end

