-- ==== Sys2Proof/Machine/RomRead.lean ====
section
/-! DEFINITION. RDC, the constant-ROM read (42_rom_read.md rules R130 to R132). -/

namespace Sys2Proof.Machine

/-- `RDC_op` (rule R130). Decode hands it indices 0..26 only; for an index above 26 the response is the one decode
gives (30_encoding.md rule R68(d), assumption log 15). -/
def rdcOp (rom : Vector Word 27) (idx : BitVec 8) : Response :=
  match romRead rom idx with
  | some v => okResponse v
  | none => illegalResponse

/-- The meaning of RDC: respond with `RDC_op(IDX)`; the operand is not read (30_encoding.md rules R63, R69). -/
def execRDC (idx : BitVec 8) (_opd : Word) (s : State) : Host.Outcome State Fault Refusal := s.answer (rdcOp s.rom idx)

end Sys2Proof.Machine
end

