-- ==== Sys2Proof/Machine/Dispatch.lean ====
section
/-! DEFINITION. One arm per operation (30_encoding.md rule R69). -/

namespace Sys2Proof.Machine

def exec (i : Instr) (s : State) : Host.Outcome State Fault Refusal :=
  match i with
  | .t2p opd => Sys2Proof.Machine.execT2P opd s
  | .p2t opd => Sys2Proof.Machine.execP2T opd s
  | .rdc idx opd => Sys2Proof.Machine.execRDC idx opd s

end Sys2Proof.Machine
end

