-- ==== Sys2Proof/Machine/Step.lean ====
section
/-! DEFINITION. One step: one clock edge (70_reset_and_hazards.md rules R160 to R166, R170; assumption log 1). -/

namespace Sys2Proof.Machine

/-- The respond part of an edge: run the operation the oldest request names, or answer that it names none. -/
def respondHead (s : State) : Host.Outcome State Fault Refusal :=
  match s.fetch with
  | none => .fault .nothingInFlight
  | some (.ok i) => exec i s
  | some (.error _) => answerIllegal s

/-- One clock edge: reset if `rst = 1`; otherwise answer the oldest request if its response is taken, then accept,
age and move the phase. -/
def step (s : State) : Host.Outcome State Fault Refusal :=
  if s.pins.rst then .next s.resetEdge
  else if s.rspTaken then s.closeOutcome (respondHead s)
  else .next (s.closeEdge s)

/-- A host that takes the offered response and does nothing else. -/
def Pins.take : Pins := ⟨false, false, 0#32, 0#256, true⟩

/-- `s` with one request where the next step fetches, due, in phase Run, and a host that takes its response at the
next edge. Assumption log 9. -/
def State.withFetchWord (s : State) (nbits w : Nat) : State :=
  { s with
    inflight := ⟨requestOfNat nbits w, 0⟩ :: s.inflight.tail
    phase := .run
    inputs := Pins.take :: s.inputs.tail }

end Sys2Proof.Machine
end

