-- ==== Sys2Proof/Machine/Port.lean ====
section
/-! DEFINITION. The response port's value bits in every cycle (10_state.md rules R25, R31; 70_reset_and_hazards.md rule R164). -/

namespace Sys2Proof.Machine

/-- The response of an operation, by the function its meaning answers with (30_encoding.md rule R69). -/
def opResponse (rom : Vector Word 27) : Instr → Response
  | .t2p opd => t2pOp rom (tickOperand opd)
  | .p2t opd => p2tOp rom (priceOperand opd)
  | .rdc idx _ => rdcOp rom idx

/-- The response the engine computes for a request, whatever else is in flight (10_state.md rule R29). -/
def respondTo (rom : Vector Word 27) (r : Request) : Response :=
  match decode r with
  | .ok i => opResponse rom i
  | .error _ => illegalResponse

/-- The response on offer: that of the oldest request, while `rsp_valid = 1`. -/
def State.offered (s : State) : Option Response :=
  if s.rspValid then (s.inflight.head?).map (fun slot => respondTo s.rom slot.req) else none

/-- `rsp_status`; unspecified while nothing is offered (rule R31, assumption log 6). -/
def State.rspStatus (s : State) : BitVec 2 :=
  match s.offered with
  | some rsp => rsp.status.code
  | none => Config.idleStatus s.fresh

/-- `rsp_result`; unspecified while nothing is offered (rule R31, assumption log 6). -/
def State.rspResult (s : State) : Word :=
  match s.offered with
  | some rsp => rsp.result
  | none => Config.idleResult s.fresh

end Sys2Proof.Machine
end

