-- ==== Sys2Proof/Machine/Assembler.lean ====
section
/-! DEFINITION. The textual syntax of requests and responses (30_encoding.md rules R73 to R75; assumption log 17). -/

namespace Sys2Proof.Machine

/-- The names rule R74 gives to ROM indices. -/
inductive ConstName where
  | k (i : Fin 20)
  | minTick
  | maxTick
  | minSqrtRatio
  | maxSqrtRatio
  | sqrt10001
  | tickLowErr
  | tickHighErr
deriving DecidableEq, Repr

/-- The index a name stands for (rule R74). -/
def ConstName.index : ConstName → Nat
  | .k i => i.val
  | .minTick => 20
  | .maxTick => 21
  | .minSqrtRatio => 22
  | .maxSqrtRatio => 23
  | .sqrt10001 => 24
  | .tickLowErr => 25
  | .tickHighErr => 26

/-- One request line (rules R73, R74). -/
inductive Line where
  | t2p (tick : Int)
  | p2t (price : Nat)
  | rdc (idx : Nat)
  | rdcNamed (name : ConstName)
  | req (cmd opd : Nat)
deriving DecidableEq, Repr

/-- `RDC <idx>` for an index 0..255 (rule R73). -/
def assembleRdc (idx : Nat) : Option Request :=
  if idx ≤ 255 then some ⟨BitVec.ofNat 32 (idx <<< 8 ||| 0x03), 0#256⟩ else none

/-- What a line assembles to; none where its number does not fit (rules R73, R74). -/
def assemble : Line → Option Request
  | .t2p t => if -2 ^ 255 ≤ t ∧ t < 2 ^ 255 then some ⟨0x00000001#32, BitVec.ofInt 256 t⟩ else none
  | .p2t p => if p < 2 ^ 256 then some ⟨0x00000002#32, BitVec.ofNat 256 p⟩ else none
  | .rdc idx => assembleRdc idx
  | .rdcNamed name => assembleRdc name.index
  | .req cmd opd => if cmd < 2 ^ 32 ∧ opd < 2 ^ 256 then some ⟨BitVec.ofNat 32 cmd, BitVec.ofNat 256 opd⟩ else none

/-! ### Characters -/

/-- The value of a digit in base 10 or 16. -/
def digitValue (base : Nat) (c : Char) : Option Nat :=
  let v := if '0'.toNat ≤ c.toNat ∧ c.toNat ≤ '9'.toNat then some (c.toNat - '0'.toNat)
    else if 'a'.toNat ≤ c.toNat ∧ c.toNat ≤ 'f'.toNat then some (c.toNat - 'a'.toNat + 10)
    else if 'A'.toNat ≤ c.toNat ∧ c.toNat ≤ 'F'.toNat then some (c.toNat - 'A'.toNat + 10)
    else none
  v.filter (fun d => decide (d < base))

/-- The digits of a number, most significant first, onto an accumulator. -/
def readDigits (base : Nat) : List Char → Nat → Option Nat
  | [], acc => some acc
  | c :: cs, acc =>
    match digitValue base c with
    | some d => readDigits base cs (acc * base + d)
    | none => none

/-- A decimal numeral of at least one digit. -/
def readDecimal : List Char → Option Nat
  | [] => none
  | cs => readDigits 10 cs 0

/-- A hex numeral, written `0x...` (00_scope.md rule R8). -/
def readHex : List Char → Option Nat
  | '0' :: 'x' :: c :: cs => readDigits 16 (c :: cs) 0
  | _ => none

/-- A signed decimal numeral. -/
def readSigned : List Char → Option Int
  | '-' :: cs => (readDecimal cs).map (fun n => -(n : Int))
  | cs => (readDecimal cs).map (fun n => (n : Int))

/-- The words of a line, parted at spaces, `w` being the word under way in reverse. -/
def splitWords : List Char → List Char → List (List Char)
  | [], w => if w = [] then [] else [w.reverse]
  | c :: cs, w =>
    if c = ' ' then (if w = [] then splitWords cs [] else w.reverse :: splitWords cs [])
    else splitWords cs (c :: w)

/-- The named indices other than `K<i>`, with their spelling (rule R74). -/
def constNames : List (List Char × ConstName) :=
  [("MIN_TICK".toList, .minTick), ("MAX_TICK".toList, .maxTick), ("MIN_SQRT_RATIO".toList, .minSqrtRatio),
   ("MAX_SQRT_RATIO".toList, .maxSqrtRatio), ("SQRT_10001".toList, .sqrt10001), ("TICK_LOW_ERR".toList, .tickLowErr),
   ("TICK_HIGH_ERR".toList, .tickHighErr)]

/-- The argument of `RDC`: an index or a name (rules R73, R74). -/
def readIndex : List Char → Option Line
  | 'K' :: cs =>
    match readDecimal cs with
    | some n => if h : n < 20 then some (.rdcNamed (.k ⟨n, h⟩)) else none
    | none => none
  | cs =>
    match constNames.lookup cs with
    | some name => some (.rdcNamed name)
    | none => (readDecimal cs).map Line.rdc

/-- A price: unsigned decimal or `0x` hex (rule R73). -/
def readPrice (cs : List Char) : Option Nat :=
  match readHex cs with
  | some n => some n
  | none => readDecimal cs

/-- One line of text as a request line (rule R73). -/
def parseLine (cs : List Char) : Option Line :=
  match splitWords cs [] with
  | [kw, arg] =>
    if kw = "T2P".toList then (readSigned arg).map Line.t2p
    else if kw = "P2T".toList then (readPrice arg).map Line.p2t
    else if kw = "RDC".toList then readIndex arg
    else none
  | [kw, cmd, opd] =>
    if kw = ".req".toList ∧ cmd.getLast? = some ',' then
      match readHex cmd.dropLast, readHex opd with
      | some c, some o => some (.req c o)
      | _, _ => none
    else none
  | _ => none

/-- A line of text straight to a request. -/
def assembleText (cs : List Char) : Option Request := (parseLine cs).bind assemble

/-- The spelling of a status (30_encoding.md rule R66). -/
def Status.text : Status → List Char
  | .ok => "OK".toList
  | .tickOutOfRange => "TICK_OUT_OF_RANGE".toList
  | .priceOutOfRange => "PRICE_OUT_OF_RANGE".toList
  | .illegalRequest => "ILLEGAL_REQUEST".toList

/-- A decimal numeral of an integer. -/
def intText (n : Int) : List Char :=
  if n < 0 then '-' :: Nat.toDigits 10 n.natAbs else Nat.toDigits 10 n.natAbs

/-- The integer a response's result is written as: signed for P2T, unsigned otherwise (rule R73). -/
def resultValue (r : Request) (rsp : Response) : Int :=
  match decode r with
  | .ok (.p2t _) => rsp.result.toInt
  | _ => (rsp.result.toNat : Int)

/-- `-> <STATUS> <result>` (rule R73). -/
def responseText (r : Request) (rsp : Response) : List Char :=
  "-> ".toList ++ rsp.status.text ++ ' ' :: intText (resultValue r rsp)

end Sys2Proof.Machine
end

