-- ==== Sys2Proof/Machine/Platform.lean ====
section
/-! DEFINITION. Several engines on one platform (60_exceptions.md rule R153; assumption log 12). -/

namespace Sys2Proof.Machine

/-- A platform: its engines, which share nothing that changes. Each has its own pins, `rst` among them: rule R153 lets
instances start together at reset and leaves open whether an `rst` asserted later reaches all of them at once. DESIGN
CHOICE, assumption log 12: one instance may be reset alone, and a common reset is the case where all pins agree. -/
structure Platform where
  engines : List State
deriving DecidableEq, Repr

/-- All instances start together at reset (rule R153). Every one starts with `fresh` at 0, and so two instances draw the same
extra delays and idle port values at equal edge counts, which the spec leaves open (DESIGN CHOICE, assumption log 19). -/
def Platform.reset : Platform := ⟨List.replicate Config.nInstances State.reset⟩

/-- One step of instance `k`, on its own pins; no signal passes between instances (rule R153). That an edge with `rst = 1`
resets this instance alone is the model's choice, as is that nothing happens where there is no instance `k` (DESIGN CHOICE,
assumption log 12). -/
def Platform.stepAt (p : Platform) (k : Nat) : Host.Outcome Platform Fault Refusal :=
  match p.engines[k]? with
  | none => .next p
  | some s =>
    match step s with
    | .next t => .next ⟨p.engines.set k t⟩
    | .fault e => .fault e
    | .refused e => .refused e

end Sys2Proof.Machine
end

