-- ==== Sys2Proof/Reference.lean ====
section
/-! DEFINITION. The rules of the value semantics over exact integers, with no width and no wrap, written beside the datapath and not from it: what the statements compare the machine with (40_tick_to_price.md rules R81 to R87, 41_price_to_tick.md rules R101 to R111, 42_rom_read.md rule R130, 30_encoding.md rule R69). The constants are the decimal column of 20_memory.md rules R41 to R43; the machine's ROM holds the hex column. -/

namespace Sys2Proof.Reference

open Sys2Proof.Machine (Response Status)

/-- `K[0..19]` (rule R41, decimal column). -/
def kTable : List Nat :=
  [340265354078544963557816517032075149313,
   340248342086729790484326174814286782778,
   340214320654664324051920982716015181260,
   340146287995602323631171512101879684304,
   340010263488231146823593991679159461444,
   339738377640345403697157401104375502016,
   339195258003219555707034227454543997025,
   338111622100601834656805679988414885971,
   335954724994790223023589805789778977700,
   331682121138379247127172139078559817300,
   323299236684853023288211250268160618739,
   307163716377032989948697243942600083929,
   277268403626896220162999269216087595045,
   225923453940442621947126027127485391333,
   149997214084966997727330242082538205943,
   66119101136024775622716233608466517926,
   12847376061809297530290974190478138313,
   485053260817066172746253684029974020,
   691415978906521570653435304214168,
   1404880482679654955896180642]

/-- `K[i]`. -/
def k (i : Nat) : Nat := kTable.getD i 0

/-- `MAX_TICK` (rule R42). -/
def maxTick : Int := 887272

/-- `MIN_TICK` (rule R42). -/
def minTick : Int := -887272

/-- `MIN_SQRT_RATIO` (rule R42). -/
def minSqrtRatio : Nat := 4295128739

/-- `MAX_SQRT_RATIO` (rule R42). -/
def maxSqrtRatio : Nat := 1461446703485210103287273052203988822378723970342

/-- `SQRT_10001` (rule R43). -/
def sqrt10001 : Int := 255738958999603826347141

/-- `TICK_LOW_ERR` (rule R43). -/
def tickLowErr : Int := 3402992956809132418596140100660247210

/-- `TICK_HIGH_ERR` (rule R43). -/
def tickHighErr : Int := 291339464771989622907027621153398088495

/-- The integer each ROM entry stands for, in index order (rule R40). -/
def romValues : List Int :=
  kTable.map (fun n => (n : Int)) ++
    [minTick, maxTick, (minSqrtRatio : Int), (maxSqrtRatio : Int), sqrt10001, tickLowErr, tickHighErr]

/-- The integer of ROM entry `idx`. -/
def romValue (idx : Nat) : Int := romValues.getD idx 0

/-! ### Tick to price -/

/-- Rule R84 on exact integers. -/
def chainStep (a ratio i : Nat) : Nat := if a.testBit i then ratio * k i / 2 ^ 128 else ratio

/-- Rules R83 and R84: the Q128 ratio of tick `-a`. -/
def ratio (a : Nat) : Nat :=
  (List.range' 1 19).foldl (chainStep a) (if a.testBit 0 then k 0 else 2 ^ 128)

/-- Rules R82 to R86: the price of a tick, `ceil` taken as rule R86 says it equals. -/
def price (t : Int) : Nat :=
  let q := if 0 < t then (2 ^ 256 - 1) / ratio t.natAbs else ratio t.natAbs
  (q + (2 ^ 32 - 1)) / 2 ^ 32

/-! ### Price to tick -/

/-- Rule R104: the number scaled into `[2^127, 2^128)`. -/
def normalised (x : Nat) : Nat :=
  if 128 ≤ Nat.log2 x then x / 2 ^ (Nat.log2 x - 127) else x * 2 ^ (127 - Nat.log2 x)

/-- One squaring of rules R106 and R107 on `(r, fraction)` for a bit position. -/
def squareStep (rf : Nat × Nat) (bit : Nat) : Nat × Nat :=
  let sq := rf.1 * rf.1 / 2 ^ 127
  if 2 ^ 128 ≤ sq then (sq / 2, rf.2 + 2 ^ bit) else (sq, rf.2)

/-- The fourteen fraction bits, positions 63 down to 50, as a Q64 fraction. -/
def fraction (x : Nat) : Nat := ((List.range' 50 14).reverse.foldl squareStep (normalised x, 0)).2

/-- Rules R102 to R107: `log_2` of a price in Q64. -/
def log2 (p : Nat) : Int := ((Nat.log2 (p * 2 ^ 32) : Int) - 128) * 2 ^ 64 + (fraction (p * 2 ^ 32) : Int)

/-- Rule R109, with the floor of an exact quotient. -/
def tickLow (p : Nat) : Int := (log2 p * sqrt10001 - tickLowErr) / 2 ^ 128

/-- Rule R109. -/
def tickHigh (p : Nat) : Int := (log2 p * sqrt10001 + tickHighErr) / 2 ^ 128

/-- Rule R110. -/
def tick (p : Nat) : Int :=
  if tickLow p = tickHigh p then tickLow p
  else if price (tickHigh p) ≤ p then tickHigh p
  else tickLow p

/-! ### Requests -/

/-- `T2P_op` (rules R81, R87). -/
def t2p (t : Int) : Response :=
  if maxTick < (t.natAbs : Int) then ⟨.tickOutOfRange, 0⟩ else ⟨.ok, BitVec.ofNat 256 (price t)⟩

/-- `P2T_op` (rules R101, R111). -/
def p2t (p : Nat) : Response :=
  if minSqrtRatio ≤ p ∧ p < maxSqrtRatio then ⟨.ok, BitVec.ofInt 256 (tick p)⟩ else ⟨.priceOutOfRange, 0⟩

/-- `RDC_op` (rules R130, R131). -/
def rdc (idx : Nat) : Response := ⟨.ok, BitVec.ofInt 256 (romValue idx)⟩

/-- The response of rule R69 to an encoding that names no operation. -/
def illegal : Response := ⟨.illegalRequest, 0⟩

/-- `Exec(CMD, OPD)` (rule R69), its fields taken from the command word as a number (rule R60). -/
def exec (r : Request) : Response :=
  let op := r.cmd.toNat % 256
  let idx := r.cmd.toNat / 256 % 256
  let rsv := r.cmd.toNat / 65536
  if rsv ≠ 0 then illegal
  else if op = 1 then (if idx ≠ 0 then illegal else t2p r.opd.toInt)
  else if op = 2 then (if idx ≠ 0 then illegal else p2t r.opd.toNat)
  else if op = 3 then (if 26 < idx then illegal else rdc idx)
  else illegal

end Sys2Proof.Reference
end

