-- ==== Sys2Proof/Safety.lean ====
section
/-! DEFINITION. What claims say of runs: the transaction-level transition system of 70_reset_and_hazards.md rule R170, the engine's invariant, and the end of a run (rule R169). -/

namespace Sys2Proof.Safety

open Sys2Proof.Machine

/-- One transition of rule R170 on the queue of accepted requests, which holds at most `cap`; none where the rule
allows no such step: an accept into a full queue, a respond from an empty one, a response that is not `Exec` of the
oldest request. -/
def replayStep (cap : Nat) : Option (List Request) → Event → Option (List Request)
  | some q, .accept r => if q.length < cap then some (q ++ [r]) else none
  | some (r :: q), .respond rsp => if rsp = Reference.exec r then some q else none
  | some [], .respond _ => none
  | some _, .reset => some []
  | none, _ => none

/-- The queue a log leads to from the empty queue, if every event of it is a transition of rule R170. -/
def replay (log : List Event) : Option (List Request) := log.foldl (replayStep Config.maxInflight) (some [])

/-- What holds of the engine in every state a run reaches. -/
structure EngineInv (s : State) : Prop where
  /-- The ROM holds its constants (20_memory.md rule R44). -/
  rom_constant : s.rom = Config.romImage
  /-- The queue never holds more than MAX_INFLIGHT requests (10_state.md rule R26). -/
  queue_bounded : s.inflight.length ≤ Config.maxInflight
  /-- Nothing is in flight outside phase Run (10_state.md rule R31). -/
  idle_outside_run : s.phase ≠ .run → s.inflight = []
  /-- Everything that happened is a run of rule R170, and the queue is what that run leads to. -/
  log_is_run : replay s.log = some (s.inflight.map Slot.req)

/-- The requests a log accepts, in order. -/
def acceptedRequests (log : List Event) : List Request :=
  log.filterMap (fun e => match e with | .accept r => some r | _ => none)

/-- The responses a log delivers, in order. -/
def deliveredResponses (log : List Event) : List Response :=
  log.filterMap (fun e => match e with | .respond rsp => some rsp | _ => none)

/-- How far a run has come since it began (rule R169). Every request accepted since then counts as the run's own: rule R169
says nothing of requests issued by other hosts (DESIGN CHOICE, assumption log 20). -/
structure RunProgress where
  /-- How many requests accepted before the run began are still in flight. -/
  older : Nat
  /-- The run's own requests that are in flight, oldest first. -/
  waiting : List Request
  /-- The run's own requests whose response was taken, with that response, in order. -/
  taken : List (Request × Response)
  /-- A reset has dropped a request of the run. -/
  dropped : Bool
deriving DecidableEq, Repr

/-- One event of a run. A response belongs to the oldest request in flight (20_memory.md rule R51), and so to the run only
once no older request is left; a reset drops whatever is in flight (rule R160). An accepted request is the run's, whichever
host issued it (DESIGN CHOICE, assumption log 20). -/
def RunProgress.event (p : RunProgress) : Event → RunProgress
  | .accept r => { p with waiting := p.waiting ++ [r] }
  | .respond rsp =>
    match p.older, p.waiting with
    | n + 1, _ => { p with older := n }
    | 0, r :: rest => { p with waiting := rest, taken := p.taken ++ [(r, rsp)] }
    | 0, [] => p
  | .reset => { p with older := 0, waiting := [], dropped := p.dropped || !p.waiting.isEmpty }

/-- The progress of a run that began with `older` requests in flight, `events` being what happened since. -/
def runProgress (older : Nat) (events : List Event) : RunProgress :=
  events.foldl RunProgress.event ⟨older, [], [], false⟩

/-- A run of `program` has ended: every request of it was accepted and had its own response taken, in order, none is in
flight and none was dropped by reset (rule R169). -/
def runEnded (older : Nat) (program : List Request) (events : List Event) : Prop :=
  (runProgress older events).taken.map Prod.fst = program ∧ (runProgress older events).waiting = [] ∧
    (runProgress older events).dropped = false

/-- The end state of a run: the responses to its own requests, in order (rule R169). -/
def endState (older : Nat) (events : List Event) : List Response := (runProgress older events).taken.map Prod.snd

/-- `s` after its oldest request has been answered with `rsp`: `rest` is left in flight, the log has one response more,
and everything else is as in `s`. -/
def answered (s : State) (rest : List Slot) (rsp : Response) : State :=
  { s with inflight := rest, log := s.log ++ [.respond rsp] }

end Sys2Proof.Safety
end

