-- ==== Sys2Proof/Certificates/Slice0/Obligations.lean ====
section
/-! DEFINITION. The statements for the provers. Each docstring names the rule it formalises; `Reference` holds the rules over exact integers. -/

open Sys2Proof Sys2Proof.Machine Sys2Proof.Safety

/-! ### Encoding -/

/-- R75: the four encoding examples, and that the last one is illegal under R68(a). -/
def Obligations.ExampleLinesEncodeAsWritten : Prop :=
  assemble (.t2p (-887272)) = some ⟨0x00000001#32, 0xfffffffffffffffffffffffffffffffffffffffffffffffffffffffffff27618#256⟩ ∧
  assemble (.p2t 4295128739) = some ⟨0x00000002#32, 0x1000276a3#256⟩ ∧
  assemble (.rdcNamed .minSqrtRatio) = some ⟨0x00001603#32, 0#256⟩ ∧
  assemble (.req 0x00000004 0x0) = some ⟨0x00000004#32, 0#256⟩ ∧
  decode ⟨0x00000004#32, 0#256⟩ = .error .reservedOpcode

/-- Words written out from the formats of R60 and R61 decode to the operation they stand for, as requests and as one
number. The numbering of the `decodeTableWord` clauses, command word below and operand above it, is the model's choice
(DESIGN CHOICE, assumption log 13). -/
def Obligations.WrittenWordsDecode : Prop :=
  decode ⟨0x00000001#32, 0x32#256⟩ = .ok (.t2p 50#256) ∧
  decode ⟨0x00000002#32, 0x1000276a3#256⟩ = .ok (.p2t 4295128739#256) ∧
  decode ⟨0x00001a03#32, 7#256⟩ = .ok (.rdc 26#8 7#256) ∧
  decodeTableWord 32 0x00000001 = some (.t2p 0#256) ∧
  decodeTableWord 288 0x3200000002 = some (.p2t 50#256) ∧
  decodeTableWord 32 0x00000503 = some (.rdc 5#8 0#256) ∧
  decodeTableWord 32 0x00001b03 = none

/-- Decode of encode is the operation, for every operation and every operand value its encoding admits (R60 to R63). -/
def Obligations.DecodeOfEncodeIsIdentity : Prop :=
  ∀ i : Instr, i.wellFormed = true → decode (encode i) = .ok i

/-- The other direction: a request that decodes is the encoding of what it decodes to, so no two requests name one
operation (R60, R61, R68). -/
def Obligations.EncodeOfDecodeIsIdentity : Prop :=
  ∀ (r : Request) (i : Instr), decode r = .ok i → i.wellFormed = true ∧ encode i = r

/-- R68: exactly which requests are illegal, and that an illegal one is answered (ILLEGAL_REQUEST, 0), gives up its
slot and has no other effect. -/
def Obligations.IllegalRequestsAreAnsweredInOrder : Prop :=
  (∀ r : Request, (∃ e, decode r = .error e) ↔
    ((opField r.cmd ≠ 0x01#8 ∧ opField r.cmd ≠ 0x02#8 ∧ opField r.cmd ≠ 0x03#8) ∨
      rsvField r.cmd ≠ 0#16 ∨
      ((opField r.cmd = 0x01#8 ∨ opField r.cmd = 0x02#8) ∧ idxField r.cmd ≠ 0#8) ∨
      (opField r.cmd = 0x03#8 ∧ 26 < (idxField r.cmd).toNat))) ∧
  ∀ (s : State) (slot : Slot) (rest : List Slot) (e : DecodeError),
    s.inflight = slot :: rest → decode slot.req = .error e → s.rspTaken = true →
      step s = .next (s.closeEdge (answered s rest ⟨.illegalRequest, 0#256⟩))

/-! ### The step -/

/-- An edge that takes a response runs exactly the operation the oldest request decodes to, and then closes the edge:
the queue ages by one cycle, an accepted request joins it, the pins move on, the free-value counter advances. What closing
the edge does is the model's choice and no rule of the spec: one edge logs the response before the acceptance (DESIGN
CHOICE, log 1), the host's pins are a list (DESIGN CHOICE, log 2), waiting requests count down and a new one gets its
wait from `newSlot` (DEDUCED, log 3), and the counter advances by one (DESIGN CHOICE, log 7). -/
def Obligations.StepRunsTheDecodedOperation : Prop :=
  ∀ (s : State) (slot : Slot) (rest : List Slot) (i : Instr),
    s.inflight = slot :: rest → decode slot.req = .ok i → s.rspTaken = true →
      (step s = match exec i s with
        | .next t => .next (s.closeEdge t)
        | .fault f => .fault f
        | .refused r => .refused r) ∧
      ∀ t : State, (s.closeEdge t).rom = t.rom ∧ (s.closeEdge t).phase = .run ∧
        (s.closeEdge t).inputs = s.inputs.tail ∧ (s.closeEdge t).fresh = s.fresh + 1 ∧
        (s.closeEdge t).log = t.log ++ (s.accepted.map Event.accept).toList ∧
        (s.closeEdge t).inflight =
          t.inflight.map (fun x => ⟨x.req, x.wait - 1⟩) ++ (s.accepted.map (newSlot s.fresh)).toList

/-- Every edge answers a next state: whatever the host does, no encoding stops the engine (R143, R168). -/
def Obligations.EveryEdgeAnswersNext : Prop :=
  ∀ s : State, ∃ t, step s = .next t

/-- R29: the response of every request is `Exec` of that request, and of nothing else, at every edge that takes one. -/
def Obligations.EveryResponseIsExecOfItsRequest : Prop :=
  ∀ s : State, s.rom = Config.romImage → s.rspTaken = true →
    ∃ slot rest, s.inflight = slot :: rest ∧
      step s = .next (s.closeEdge (answered s rest (Reference.exec slot.req)))

/-- A meaning called with nothing in flight stops with `nothingInFlight`: the model's choice, assumption log 8. -/
def Obligations.MeaningWithoutRequestStops : Prop :=
  ∀ (i : Instr) (s : State), s.inflight = [] → exec i s = .fault .nothingInFlight

/-- The frame of T2P, P2T and RDC, in every state and for every operand: the oldest request leaves the queue, one
response joins the log, and the ROM (every index of it), the phase, the pins and the free-value counter are unchanged;
no form stores anything. -/
def Obligations.OperationsFrame : Prop :=
  ∀ (i : Instr) (s t : State), exec i s = .next t →
    t.inflight = s.inflight.tail ∧ (∃ rsp, t.log = s.log ++ [.respond rsp]) ∧
    (∀ idx : BitVec 8, romRead t.rom idx = romRead s.rom idx) ∧
    t.phase = s.phase ∧ t.inputs = s.inputs ∧ t.fresh = s.fresh

/-! ### T2P -/

/-- R87: T2P of a tick in range answers OK with the price of the exact-integer rules R83 to R86, and does nothing else. -/
def Obligations.T2PInRangeRespondsPrice : Prop :=
  ∀ (s : State) (slot : Slot) (rest : List Slot) (opd : Word),
    s.rom = Config.romImage → s.inflight = slot :: rest → -887272 ≤ opd.toInt → opd.toInt ≤ 887272 →
      exec (.t2p opd) s = .next (answered s rest ⟨.ok, BitVec.ofNat 256 (Reference.price opd.toInt)⟩) ∧
      Reference.price opd.toInt < 2 ^ 256

/-- R81: T2P of every other operand, those outside i32 among them, answers (TICK_OUT_OF_RANGE, 0). -/
def Obligations.T2POutOfRangeResponds : Prop :=
  ∀ (s : State) (slot : Slot) (rest : List Slot) (opd : Word),
    s.rom = Config.romImage → s.inflight = slot :: rest → (opd.toInt < -887272 ∨ 887272 < opd.toInt) →
      exec (.t2p opd) s = .next (answered s rest ⟨.tickOutOfRange, 0#256⟩)

/-- R83 and R84, for every ROM content: the initial accumulator, and each step of the chain as a product modulo 2^256
and a shift by 128, bit positions in increasing order. -/
def Obligations.MultiplierChainSteps : Prop :=
  ∀ (rom : Vector Word 27) (a : Nat),
    (ratioAfter rom a 0).toNat = (if a.testBit 0 then (romEntry rom 0).toNat else 2 ^ 128) ∧
    (∀ (n : Nat) (h : n < 19), (ratioAfter rom a (n + 1)).toNat =
      if a.testBit (n + 1) then
        ((ratioAfter rom a n).toNat * (romEntry rom ⟨n + 1, by omega⟩).toNat % 2 ^ 256) / 2 ^ 128
      else (ratioAfter rom a n).toNat) ∧
    chainRatio rom a = ratioAfter rom a 19

/-- R85: the reciprocal, for positive ticks only. The divisor is not zero (R88); what a zero one gives is log 10's choice
and not stated here. -/
def Obligations.ReciprocalForPositiveTicksOnly : Prop :=
  ∀ (t : Int) (ratio : Word),
    (0 < t → ratio ≠ 0#256 → (reciprocal t ratio).toNat = (2 ^ 256 - 1) / ratio.toNat) ∧ (t ≤ 0 → reciprocal t ratio = ratio)

/-- R86: the conversion to Q96 rounds up, for both signs, for every accumulator a chain can leave. -/
def Obligations.RoundingIsCeiling : Prop :=
  ∀ ratio : Word,
    (roundToQ96 ratio).toNat = ratio.toNat / 2 ^ 32 + (if ratio.toNat % 2 ^ 32 ≠ 0 then 1 else 0) ∧
    (roundToQ96 ratio).toNat = (ratio.toNat + (2 ^ 32 - 1)) / 2 ^ 32

/-- R88: the bounds on every path of T2P past its range check. -/
def Obligations.T2PChainBounds : Prop :=
  (∀ a : Nat, a ≤ 887272 →
    (∀ n : Nat, n ≤ 19 →
      0 < (ratioAfter Config.romImage a n).toNat ∧ (ratioAfter Config.romImage a n).toNat ≤ 2 ^ 128 ∧
      ∀ i : Fin 20, (ratioAfter Config.romImage a n).toNat * (romK Config.romImage i).toNat < 2 ^ 256) ∧
    (∀ n : Nat, n < 19 → a.testBit (n + 1) = true → (ratioAfter Config.romImage a (n + 1)).toNat < 2 ^ 128) ∧
    0x1000276a221a17501 ≤ (chainRatio Config.romImage a).toNat) ∧
  (chainRatio Config.romImage 887272).toNat = 0x1000276a221a17501 ∧
  ∀ t : Int, -887272 ≤ t → t ≤ 887272 →
    (reciprocal t (chainRatio Config.romImage t.natAbs)).toNat / 2 ^ 32 + 1 < 2 ^ 256 ∧
    (sqrtPriceOf Config.romImage t).toNat ≤ Reference.maxSqrtRatio ∧ Reference.maxSqrtRatio < 2 ^ 160

/-- R89: the results lie between the bounds and are strictly increasing in the tick. -/
def Obligations.T2PIsStrictlyIncreasing : Prop :=
  (∀ t : Int, -887272 ≤ t → t ≤ 887272 →
    Reference.minSqrtRatio ≤ (t2pOp Config.romImage t).result.toNat ∧
    (t2pOp Config.romImage t).result.toNat ≤ Reference.maxSqrtRatio) ∧
  ∀ t₁ t₂ : Int, -887272 ≤ t₁ → t₁ < t₂ → t₂ ≤ 887272 →
    (t2pOp Config.romImage t₁).result.toNat < (t2pOp Config.romImage t₂).result.toNat

/-- R90: tick zero. No chain step fires, the reciprocal is not taken, and the price is 2^96. -/
def Obligations.T2POfZeroIsOne : Prop :=
  (∀ n : Nat, n ≤ 19 → (ratioAfter Config.romImage 0 n).toNat = 2 ^ 128) ∧
  (∀ ratio : Word, reciprocal 0 ratio = ratio) ∧
  ∀ (s : State) (slot : Slot) (rest : List Slot),
    s.rom = Config.romImage → s.inflight = slot :: rest →
      exec (.t2p 0#256) s = .next (answered s rest ⟨.ok, 79228162514264337593543950336#256⟩)

/-! ### P2T -/

/-- R111: P2T of a price in range answers OK with the tick of the exact-integer rules R102 to R110, sign-extended, and
does nothing else. -/
def Obligations.P2TInRangeRespondsTick : Prop :=
  ∀ (s : State) (slot : Slot) (rest : List Slot) (opd : Word),
    s.rom = Config.romImage → s.inflight = slot :: rest →
    4295128739 ≤ opd.toNat → opd.toNat < 1461446703485210103287273052203988822378723970342 →
      exec (.p2t opd) s = .next (answered s rest ⟨.ok, BitVec.ofInt 256 (Reference.tick opd.toNat)⟩)

/-- R101: P2T of every other price answers (PRICE_OUT_OF_RANGE, 0). -/
def Obligations.P2TOutOfRangeResponds : Prop :=
  ∀ (s : State) (slot : Slot) (rest : List Slot) (opd : Word),
    s.rom = Config.romImage → s.inflight = slot :: rest →
    ¬ (4295128739 ≤ opd.toNat ∧ opd.toNat < 1461446703485210103287273052203988822378723970342) →
      exec (.p2t opd) s = .next (answered s rest ⟨.priceOutOfRange, 0#256⟩)

/-- R103: the seven shifting steps, for k = 7 down to 1, and the last one; they compute the index of the most
significant set bit, and for a price in range that index lies in 64..191. -/
def Obligations.BitLengthSearchIsMsb : Prop :=
  Config.searchSteps.length = 7 ∧
  (∀ k : Nat, 1 ≤ k → k ≤ 7 → ∃ c, Config.searchSteps[7 - k]? = some c ∧
    ∀ r m : Word, searchStep (r, m) c =
      if 2 ^ (2 ^ k) ≤ r.toNat then (r >>> (2 ^ k), m ||| BitVec.ofNat 256 (2 ^ k)) else (r, m)) ∧
  (∀ ratio : Word, bitLengthSearch ratio =
    (Config.searchSteps.foldl searchStep (ratio, 0#256)).2 |||
      (if 2 ≤ (Config.searchSteps.foldl searchStep (ratio, 0#256)).1.toNat then 1#256 else 0#256)) ∧
  (∀ ratio : Word, ratio ≠ 0#256 → (bitLengthSearch ratio).toNat = Nat.log2 ratio.toNat) ∧
  ∀ p : Word, priceInRange Config.romImage p = true →
    (widen p).toNat = p.toNat * 2 ^ 32 ∧
    64 ≤ (bitLengthSearch (widen p)).toNat ∧ (bitLengthSearch (widen p)).toNat ≤ 191

/-- R104: for a price in range the working value is the shifted ratio, between 2^127 and 2^128. -/
def Obligations.WorkingValueIsNormalised : Prop :=
  ∀ p : Word, priceInRange Config.romImage p = true →
    let x := (p2tPath Config.romImage p).ratio.toNat;
    let m := (p2tPath Config.romImage p).msb.toNat;
    64 ≤ m ∧ m ≤ 191 ∧
    (p2tPath Config.romImage p).r.toNat = (if 128 ≤ m then x / 2 ^ (m - 127) else x * 2 ^ (127 - m)) ∧
    2 ^ 127 ≤ (p2tPath Config.romImage p).r.toNat ∧ (p2tPath Config.romImage p).r.toNat < 2 ^ 128

/-- R105: the log accumulator starts at `(msb - 128) * 2^64`, negative exactly below 128, its low 64 bits zero. -/
def Obligations.LogAccumulatorStart : Prop :=
  ∀ msb : Word, msb.toNat < 256 →
    (log2Init msb).toInt = ((msb.toNat : Int) - 128) * 2 ^ 64 ∧
    ((log2Init msb).toInt < 0 ↔ msb.toNat < 128) ∧
    ∀ i : Nat, i < 64 → (log2Init msb).getLsbD i = false

/-- R112: no step of P2T wraps for a price in range. -/
def Obligations.P2TNeverWraps : Prop :=
  ∀ p : Word, priceInRange Config.romImage p = true →
    let path := p2tPath Config.romImage p;
    let low := (romTickLowErr Config.romImage).toInt;
    let high := (romTickHighErr Config.romImage).toInt;
    path.ratio.toNat < 2 ^ 192 ∧ path.r.toNat = Reference.normalised (p.toNat * 2 ^ 32) ∧
    (∀ n : Nat, n ≤ 13 →
      let rl := fractionAfter path.r (log2Init path.msb) n;
      rl.1.toNat < 2 ^ 128 ∧ rl.1.toNat * rl.1.toNat < 2 ^ 256 ∧ rl.2.getLsbD (63 - n) = false) ∧
    -64 * 2 ^ 64 ≤ path.log2.toInt ∧ path.log2.toInt < 64 * 2 ^ 64 ∧
    path.log2.toInt = ((path.msb.toNat : Int) - 128) * 2 ^ 64 + (Reference.fraction (p.toNat * 2 ^ 32) : Int) ∧
    (romSqrt10001 Config.romImage).toInt < 2 ^ 78 ∧
    path.logSqrt10001.toInt = path.log2.toInt * (romSqrt10001 Config.romImage).toInt ∧
    path.logSqrt10001.toInt.natAbs < 2 ^ 149 ∧ low < 2 ^ 128 ∧ high < 2 ^ 128 ∧
    (path.logSqrt10001 - romTickLowErr Config.romImage).toInt = path.logSqrt10001.toInt - low ∧
    (path.logSqrt10001 + romTickHighErr Config.romImage).toInt = path.logSqrt10001.toInt + high

/-- R109: the candidates are the floors of the bounds over 2^128, the kind of shift cannot change them, and they differ
by 0 or 1. They bracket the tick that P2T answers, which follows from R110 and R113. -/
def Obligations.CandidatesBracketTheTick : Prop :=
  Reference.tickHighErr + Reference.tickLowErr < 2 ^ 128 ∧
  (∀ x : Word, low32 (asr x 128) = low32 (x >>> 128)) ∧
  ∀ p : Word, priceInRange Config.romImage p = true →
    let path := p2tPath Config.romImage p;
    path.tickLow.toInt = (path.logSqrt10001.toInt - 3402992956809132418596140100660247210) / 2 ^ 128 ∧
    path.tickHigh.toInt = (path.logSqrt10001.toInt + 291339464771989622907027621153398088495) / 2 ^ 128 ∧
    (path.tickHigh.toInt - path.tickLow.toInt = 0 ∨ path.tickHigh.toInt - path.tickLow.toInt = 1) ∧
    path.tickLow.toInt ≤ (p2tOp Config.romImage p).result.toInt ∧
    (p2tOp Config.romImage p).result.toInt ≤ path.tickHigh.toInt

/-- R110: the three outcomes of the choice between the candidates, for a price in range. -/
def Obligations.DisambiguationChoosesCandidate : Prop :=
  ∀ p : Word, priceInRange Config.romImage p = true →
    let path := p2tPath Config.romImage p;
    let priceHigh := (t2pOp Config.romImage path.tickHigh.toInt).result.toNat;
    (path.tickLow = path.tickHigh → p2tOp Config.romImage p = ⟨.ok, BitVec.ofInt 256 path.tickLow.toInt⟩) ∧
    (path.tickLow ≠ path.tickHigh → priceHigh ≤ p.toNat →
      p2tOp Config.romImage p = ⟨.ok, BitVec.ofInt 256 path.tickHigh.toInt⟩) ∧
    (path.tickLow ≠ path.tickHigh → p.toNat < priceHigh →
      p2tOp Config.romImage p = ⟨.ok, BitVec.ofInt 256 path.tickLow.toInt⟩)

/-- R113: the candidates at both ends of the range, the range of the candidates and of the result, and that the inner T2P never takes its error path. -/
def Obligations.P2TResultRange : Prop :=
  (p2tPath Config.romImage 4295128739#256).tickLow.toInt = -887273 ∧
  (p2tPath Config.romImage 4295128739#256).tickHigh.toInt = -887272 ∧
  (p2tPath Config.romImage 1461446703485210103287273052203988822378723970341#256).tickLow.toInt = 887271 ∧
  (p2tPath Config.romImage 1461446703485210103287273052203988822378723970341#256).tickHigh.toInt = 887272 ∧
  ∀ p : Word, priceInRange Config.romImage p = true →
    let path := p2tPath Config.romImage p;
    (-887273 ≤ path.tickLow.toInt ∧ path.tickLow.toInt ≤ 887271) ∧
    (-887272 ≤ path.tickHigh.toInt ∧ path.tickHigh.toInt ≤ 887272) ∧
    (t2pOp Config.romImage path.tickHigh.toInt).status = .ok ∧
    (p2tOp Config.romImage p).status = .ok ∧
    -887272 ≤ (p2tOp Config.romImage p).result.toInt ∧ (p2tOp Config.romImage p).result.toInt ≤ 887271

/-- R114: the result is the greatest tick whose price does not exceed the input, a property the rule marks as tested and
not proved. -/
def Obligations.P2TIsGreatestTickBelow : Prop :=
  ∀ p : Word, priceInRange Config.romImage p = true →
    let t := (p2tOp Config.romImage p).result.toInt;
    -887272 ≤ t ∧ t ≤ 887272 ∧ (t2pOp Config.romImage t).result.toNat ≤ p.toNat ∧
    ∀ u : Int, t < u → u ≤ 887272 → p.toNat < (t2pOp Config.romImage u).result.toNat

/-! ### RDC and the ROM -/

/-- R131: RDC answers OK with the entry's value as a 256-bit two's complement pattern, whatever OPD holds, and only
`MIN_TICK` is negative. -/
def Obligations.RdcRespondsRomEntry : Prop :=
  ∀ (s : State) (slot : Slot) (rest : List Slot) (idx : BitVec 8) (opd : Word),
    s.rom = Config.romImage → s.inflight = slot :: rest → idx.toNat ≤ 26 →
      exec (.rdc idx opd) s = .next (answered s rest ⟨.ok, BitVec.ofInt 256 (Reference.romValue idx.toNat)⟩) ∧
      (Reference.romValue idx.toNat < 0 ↔ idx.toNat = 20)

/-- The meaning of RDC answers an index above 26, which decode never hands it, as decode does: the model's choice,
assumption log 15. -/
def Obligations.RdcBeyondRomIsIllegal : Prop :=
  ∀ (s : State) (slot : Slot) (rest : List Slot) (idx : BitVec 8) (opd : Word),
    s.inflight = slot :: rest → 26 < idx.toNat →
      exec (.rdc idx opd) s = .next (answered s rest ⟨.illegalRequest, 0#256⟩)

/-- R44: no step changes the ROM, a reset edge among them, and so a read gives the same value every time. -/
def Obligations.RomNeverChanges : Prop :=
  ∀ s t : State, step s = .next t → t.rom = s.rom ∧ ∀ idx : BitVec 8, romRead t.rom idx = romRead s.rom idx

/-- R41: the multiplier table is the listed one, in both its columns, below 2^128, and each entry is
`2^128 / sqrt(1.0001)^(2^i)` rounded to nearest (squared, so that only integers stand here). -/
def Obligations.MultiplierTableIsRoundedPowers : Prop :=
  ∀ i : Fin 20,
    (romK Config.romImage i).toNat = Reference.k i.val ∧ 0 < Reference.k i.val ∧ Reference.k i.val < 2 ^ 128 ∧
    (2 * Reference.k i.val - 1) ^ 2 * 10001 ^ (2 ^ i.val) < 2 ^ 258 * 10000 ^ (2 ^ i.val) ∧
    2 ^ 258 * 10000 ^ (2 ^ i.val) < (2 * Reference.k i.val + 1) ^ 2 * 10001 ^ (2 ^ i.val)

/-- R42: the bounds as listed, and the price bounds are the prices of the tick bounds; beside them the values R43
lists for the auxiliary constants. -/
def Obligations.RomBoundsAreT2POfTickBounds : Prop :=
  (romEntry Config.romImage 20).toInt = -887272 ∧ (romEntry Config.romImage 21).toInt = 887272 ∧
  (romEntry Config.romImage 22).toNat = 4295128739 ∧
  (romEntry Config.romImage 23).toNat = 1461446703485210103287273052203988822378723970342 ∧
  (romEntry Config.romImage 23).toNat < 2 ^ 160 ∧ (romEntry Config.romImage 20).toNat = 2 ^ 256 - 887272 ∧
  (romEntry Config.romImage 24).toInt = 255738958999603826347141 ∧
  (romEntry Config.romImage 25).toInt = 3402992956809132418596140100660247210 ∧
  (romEntry Config.romImage 26).toInt = 291339464771989622907027621153398088495 ∧
  sqrtPriceOf Config.romImage (-887272) = romEntry Config.romImage 22 ∧
  sqrtPriceOf Config.romImage 887272 = romEntry Config.romImage 23

/-! ### Statuses and errors -/

/-- R66, R140, R141, R142, R146: the status codes, which request gets which status, and that every error carries
result 0. -/
def Obligations.StatusOfEveryRequest : Prop :=
  (Status.code .ok = 0b00#2 ∧ Status.code .tickOutOfRange = 0b01#2 ∧ Status.code .priceOutOfRange = 0b10#2 ∧
    Status.code .illegalRequest = 0b11#2) ∧
  ∀ r : Request,
    let rsp := respondTo Config.romImage r;
    (rsp.status = .tickOutOfRange ↔ ∃ opd, decode r = .ok (.t2p opd) ∧ 887272 < opd.toInt.natAbs) ∧
    (rsp.status = .priceOutOfRange ↔ ∃ opd, decode r = .ok (.p2t opd) ∧
      (opd.toNat < 4295128739 ∨ 1461446703485210103287273052203988822378723970342 ≤ opd.toNat)) ∧
    (rsp.status = .illegalRequest ↔ ∃ e, decode r = .error e) ∧
    (rsp.status ≠ .ok → rsp.result = 0#256)

/-- R144: an error is reported, not trapped. For every ROM content, an edge that takes a response delivers one
response; if its status is an error its result is 0, and the edge leaves the same ROM, phase, pins, queue and counter
that it would leave with any other response. -/
def Obligations.ErrorsChangeNothingElse : Prop :=
  ∀ (s : State) (slot : Slot) (rest : List Slot), s.rspTaken = true → s.inflight = slot :: rest →
    ∃ rsp, step s = .next (s.closeEdge (answered s rest rsp)) ∧ (rsp.status ≠ .ok → rsp.result = 0#256) ∧
      ∀ rsp' : Response,
        (s.closeEdge (answered s rest rsp)).rom = (s.closeEdge (answered s rest rsp')).rom ∧
        (s.closeEdge (answered s rest rsp)).phase = (s.closeEdge (answered s rest rsp')).phase ∧
        (s.closeEdge (answered s rest rsp)).inputs = (s.closeEdge (answered s rest rsp')).inputs ∧
        (s.closeEdge (answered s rest rsp)).inflight = (s.closeEdge (answered s rest rsp')).inflight ∧
        (s.closeEdge (answered s rest rsp)).fresh = (s.closeEdge (answered s rest rsp')).fresh

/-- A response depends on its own request and the ROM alone: two engines whose oldest requests are equal deliver equal
responses, whatever else is in flight, in the logs or on the pins (R29, R167). -/
def Obligations.ResponsesIgnoreContext : Prop :=
  ∀ (s₁ s₂ t₁ t₂ : State) (a b : Slot) (r₁ r₂ : List Slot),
    s₁.rom = s₂.rom → s₁.inflight = a :: r₁ → s₂.inflight = b :: r₂ → a.req = b.req →
    s₁.rspTaken = true → s₂.rspTaken = true → step s₁ = .next t₁ → step s₂ = .next t₂ →
      ∃ rsp, deliveredResponses t₁.log = deliveredResponses s₁.log ++ [rsp] ∧
        deliveredResponses t₂.log = deliveredResponses s₂.log ++ [rsp]

/-! ### Reset and handshake -/

/-- The state after reset and the outputs during reset and warm-up (10_state.md section 5); that the state after reset
has its warm-up ahead is the model's reading, assumption log 5. -/
def Obligations.ResetStateAndOutputs : Prop :=
  State.reset.rom = Config.romImage ∧ State.reset.inflight = [] ∧
  State.reset.phaseNow = Phase.warm Config.resetCycles ∧ State.reset.rspValid = false ∧
  ∀ s : State, (s.pins.rst = true → s.phaseNow = .reset) ∧
    (s.phaseNow ≠ .run → s.reqReady = false ∧ s.rspValid = false)

/-- R160: while `rst = 1` both outputs are low, and the edge empties the queue and leaves the ROM; the dropped requests
get no response; and no other edge drops a request. -/
def Obligations.ResetAloneDropsRequests : Prop :=
  (∀ s : State, s.pins.rst = true →
    s.reqReady = false ∧ s.rspValid = false ∧
    ∃ t, step s = .next t ∧ t.inflight = [] ∧ t.phase = .reset ∧ t.rom = s.rom ∧
      deliveredResponses t.log = deliveredResponses s.log) ∧
  ∀ s t : State, s.pins.rst = false → step s = .next t →
    (if s.rspTaken then s.inflight.tail else s.inflight).map Slot.req <+: t.inflight.map Slot.req

/-- After `rst` falls, `req_ready` stays 0 for RESET_CYCLES cycles, then the phase is Run and `req_ready` follows R165.
That a cycle is counted for each edge with `rst = 0` is the model's reading of R161, assumption log 5. -/
def Obligations.WarmupThenRun : Prop :=
  ∀ (s : State), s.phase = .reset → (∀ p ∈ s.inputs, p.rst = false) →
    ∀ (k : Nat) (t : State), Sys2Proof.core.run k s = .next t →
      t.phaseNow = Phase.warm (Config.resetCycles - k) ∧
      t.reqReady = (decide (Config.resetCycles ≤ k) && decide (t.inflight.length < Config.maxInflight))

/-- R163: the accepting edge samples the pins and appends the request; the pins' values at any other edge have no
effect; and accepting changes no other request's result. -/
def Obligations.AcceptanceSamplesThePins : Prop :=
  (∀ s : State, s.pins.reqValid = true → s.reqReady = true → s.pins.rst = false →
    ∃ t, step s = .next t ∧
      t.inflight.map Slot.req =
        (if s.rspTaken then s.inflight.tail else s.inflight).map Slot.req ++ [⟨s.pins.reqCmd, s.pins.reqOpd⟩] ∧
      acceptedRequests t.log = acceptedRequests s.log ++ [⟨s.pins.reqCmd, s.pins.reqOpd⟩]) ∧
  (∀ (s : State) (p : Pins) (ps : List Pins) (cmd : BitVec 32) (opd : Word),
    s.inputs = p :: ps → (p.reqValid && s.reqReady) = false →
      step { s with inputs := { p with reqCmd := cmd, reqOpd := opd } :: ps } = step s) ∧
  ∀ (s t u : State) (p : Pins) (ps : List Pins), s.inputs = p :: ps → step s = .next t →
    step { s with inputs := { p with reqValid := false } :: ps } = .next u →
      deliveredResponses t.log = deliveredResponses u.log

/-- R164: the engine offers the oldest request's response, its code and its result on the ports, holds both stable until it
is taken, and the taken response is the offered one. -/
def Obligations.OfferedResponseIsStable : Prop :=
  (∀ s : State, s.rspValid = true → ∃ slot rest, s.inflight = slot :: rest ∧
    s.offered = some (respondTo s.rom slot.req) ∧
    s.rspStatus = (respondTo s.rom slot.req).status.code ∧ s.rspResult = (respondTo s.rom slot.req).result) ∧
  (∀ s t : State, s.rspValid = true → s.pins.rspReady = false → step s = .next t → t.pins.rst = false →
    t.rspValid = true ∧ t.rspStatus = s.rspStatus ∧ t.rspResult = s.rspResult ∧
    s.inflight.map Slot.req <+: t.inflight.map Slot.req) ∧
  ∀ s : State, s.rspTaken = true → ∃ slot rest rsp t, s.inflight = slot :: rest ∧ s.offered = some rsp ∧
    step s = .next t ∧ deliveredResponses t.log = deliveredResponses s.log ++ [rsp] ∧
    s.rspStatus = rsp.status.code ∧ s.rspResult = rsp.result ∧ rest.map Slot.req <+: t.inflight.map Slot.req

/-- R67: while `rsp_valid = 1` the ports carry the status code and the result of `Exec` of the oldest request, the result
in the format of its operation. -/
def Obligations.ResponsePortsCarryExec : Prop :=
  ∀ s : State, s.rom = Config.romImage → s.rspValid = true →
    ∃ slot rest, s.inflight = slot :: rest ∧
      s.rspStatus = (Reference.exec slot.req).status.code ∧ s.rspResult = (Reference.exec slot.req).result ∧
      (∀ opd, decode slot.req = .ok (.t2p opd) → s.rspStatus = 0b00#2 →
        s.rspResult = BitVec.ofNat 256 (Reference.price opd.toInt) ∧ Reference.price opd.toInt < 2 ^ 160) ∧
      (∀ opd, decode slot.req = .ok (.p2t opd) → s.rspStatus = 0b00#2 →
        s.rspResult = sext256 (BitVec.ofInt 32 (Reference.tick opd.toNat))) ∧
      (∀ idx opd, decode slot.req = .ok (.rdc idx opd) → s.rspStatus = 0b00#2 ∧ romRead s.rom idx = some s.rspResult) ∧
      (s.rspStatus ≠ 0b00#2 → s.rspResult = 0#256)

/-- R165: in phase Run `req_ready = 1` exactly when the queue is not full, and a full queue accepts nothing, even at an
edge that takes a response. -/
def Obligations.BackPressure : Prop :=
  (∀ s : State, s.phaseNow = .run → (s.reqReady = true ↔ s.inflight.length < Config.maxInflight)) ∧
  ∀ s t : State, Config.maxInflight ≤ s.inflight.length → step s = .next t →
    acceptedRequests t.log = acceptedRequests s.log

/-- The latencies are constants of the opcode, at least 1, and at every edge earlier than its latency after its acceptance
a request, whatever was in flight before it, is still in flight, behind what is left of the older ones, and is not offered:
the responses delivered since are those of older requests. The countdown is the model's form of R166, assumption log 3. -/
def Obligations.LatencyIsALowerBound : Prop :=
  (∀ (cmd : BitVec 32) (o₁ o₂ : Word), latencyOf ⟨cmd, o₁⟩ = latencyOf ⟨cmd, o₂⟩) ∧
  (∀ r : Request, 1 ≤ latencyOf r) ∧
  (∀ r : Request, latencyOf r = match decode r with
    | .ok (.t2p _) => Config.latT2P
    | .ok (.p2t _) => Config.latP2T
    | _ => Config.latRDC) ∧
  ∀ (s t u : State) (r : Request) (k : Nat),
    s.accepted = some r → step s = .next t → (∀ p ∈ t.inputs.take k, p.rst = false) →
    k < latencyOf r → Sys2Proof.core.run k t = .next u →
      ∃ (gone : List Request) (ahead : List Slot) (slot : Slot) (later : List Slot),
        t.inflight.map Slot.req = gone ++ ahead.map Slot.req ++ [r] ∧
        u.inflight = ahead ++ slot :: later ∧ slot.req = r ∧
        (deliveredResponses u.log).length = (deliveredResponses t.log).length + gone.length ∧
        (ahead = [] → u.rspValid = false)

/-- A host that keeps `rsp_ready = 1` gets the oldest response after finitely many edges, and that response is `Exec` of
the oldest request (R171). The number of edges is that of the model's countdown, assumption log 3. -/
def Obligations.HeadIsEventuallyAnswered : Prop :=
  ∀ (s : State) (slot : Slot) (rest : List Slot),
    s.rom = Config.romImage → s.phase = .run → s.inflight = slot :: rest → slot.wait < s.inputs.length →
    (∀ p ∈ s.inputs.take (slot.wait + 1), p.rst = false ∧ p.rspReady = true) →
      ∃ t, Sys2Proof.core.run (slot.wait + 1) s = .next t ∧
        deliveredResponses t.log = deliveredResponses s.log ++ [Reference.exec slot.req] ∧
        rest.map Slot.req <+: t.inflight.map Slot.req

/-! ### Runs -/

/-- Every edge keeps the engine's invariant: the ROM's constants, the bound on the queue, nothing in flight outside
Run, and a log that is a run of R170's transition system from the empty queue to the present one. -/
def Obligations.EngineInvIsKept : Prop :=
  ∀ s t : State, EngineInv s → step s = .next t → EngineInv t

/-- The invariant holds after reset. -/
def Obligations.EngineInvAtReset : Prop := EngineInv State.reset

/-- R51 and R169: when a run of a program has ended, whatever came before it and whatever was in flight when it began, its
end state is `Exec` of its requests, in their order, and if it had any then nothing is in flight. Every request accepted
since the run began counts as its own (DESIGN CHOICE, log 20). -/
def Obligations.EndedRunDeliversExecInOrder : Prop :=
  ∀ (s : State) (before events : List Event) (older program : List Request),
    EngineInv s → s.log = before ++ events → replay before = some older → runEnded older.length program events →
      endState older.length events = program.map Reference.exec ∧ (program ≠ [] → s.inflight = [])

/-- R169: what a run counts as waiting is what is in flight behind the older requests; while a request of it is in flight
it has not ended, and once a reset drops one it never does. Every request accepted since the run began counts as its own
(DESIGN CHOICE, log 20). -/
def Obligations.RequestInFlightOrDroppedEndsNoRun : Prop :=
  ∀ (s : State) (before events : List Event) (older : List Request),
    EngineInv s → s.log = before ++ events → replay before = some older →
      let p := runProgress older.length events;
      s.inflight.map Slot.req = older.drop (older.length - p.older) ++ p.waiting ∧
      (p.waiting ≠ [] → ∀ program, ¬ runEnded older.length program events) ∧
      (p.waiting ≠ [] → s.pins.rst = true →
        ∃ t, step s = .next t ∧ t.log = before ++ (events ++ [.reset]) ∧
          ∀ (later : List Event) (program : List Request),
            ¬ runEnded older.length program (events ++ .reset :: later))

/-- R170: at an edge that both takes a response and accepts a request, the two transitions in either order lead to the
queue the edge leaves; one that only takes a response leaves the queue of that transition, and where the queue holds one
request no edge does both. That the log holds the response first is the model's choice (DESIGN CHOICE, log 1). -/
def Obligations.AcceptAndRespondCommute : Prop :=
  ∀ s : State, EngineInv s → s.rspTaken = true →
    ∃ slot rest t, s.inflight = slot :: rest ∧ step s = .next t ∧
      (∀ r, s.accepted = some r →
        t.log = s.log ++ [.respond (Reference.exec slot.req), .accept r] ∧
        replay (s.log ++ [.respond (Reference.exec slot.req), .accept r]) = some (t.inflight.map Slot.req) ∧
        replay (s.log ++ [.accept r, .respond (Reference.exec slot.req)]) = some (t.inflight.map Slot.req)) ∧
      (s.accepted = none →
        t.log = s.log ++ [.respond (Reference.exec slot.req)] ∧ replay t.log = some (t.inflight.map Slot.req)) ∧
      (Config.maxInflight = 1 → s.accepted = none)

/-- Instances start together at reset, at least one; a step of one is a step of that engine and leaves every
other as it was (R153). The form of a platform, and that each engine has its own `rst`, are the model's choice (DESIGN
CHOICE, assumption log 12). -/
def Obligations.InstancesAreIndependent : Prop :=
  (0 < Platform.reset.engines.length ∧ ∀ s ∈ Platform.reset.engines, s = State.reset) ∧
  ∀ (p : Platform) (k : Nat) (s : State), p.engines[k]? = some s →
    ∃ t q, step s = .next t ∧ p.stepAt k = .next q ∧ q.engines[k]? = some t ∧
      ∀ j : Nat, j ≠ k → q.engines[j]? = p.engines[j]?

/-! ### Text -/

/-- What each request line assembles to, for every number that fits (30_encoding.md section 5). -/
def Obligations.LinesAssembleToTheirFields : Prop :=
  (∀ t : Int, -2 ^ 255 ≤ t → t < 2 ^ 255 →
    ∃ r, assemble (.t2p t) = some r ∧ decode r = .ok (.t2p r.opd) ∧ tickOperand r.opd = t) ∧
  (∀ p : Nat, p < 2 ^ 256 →
    ∃ r, assemble (.p2t p) = some r ∧ decode r = .ok (.p2t r.opd) ∧ (priceOperand r.opd).toNat = p) ∧
  (∀ idx : Nat, idx ≤ 255 →
    ∃ r, assemble (.rdc idx) = some r ∧ r.opd = 0#256 ∧ opField r.cmd = 0x03#8 ∧
      (idxField r.cmd).toNat = idx ∧ rsvField r.cmd = 0#16) ∧
  (∀ cmd opd : Nat, cmd < 2 ^ 32 → opd < 2 ^ 256 →
    ∃ r, assemble (.req cmd opd) = some r ∧ r.cmd.toNat = cmd ∧ r.opd.toNat = opd)

/-- R74: the named reads, spelled out, assemble exactly as their indices. -/
def Obligations.NamedReadsAssembleAsIndices : Prop :=
  (∀ name : ConstName, assemble (.rdcNamed name) = assemble (.rdc name.index)) ∧
  (∀ i : Fin 20, ConstName.index (.k i) = i.val) ∧
  assembleText "RDC K19".toList = assemble (.rdc 19) ∧
  assembleText "RDC MIN_TICK".toList = assemble (.rdc 20) ∧
  assembleText "RDC MAX_TICK".toList = assemble (.rdc 21) ∧
  assembleText "RDC MIN_SQRT_RATIO".toList = assemble (.rdc 22) ∧
  assembleText "RDC MAX_SQRT_RATIO".toList = assemble (.rdc 23) ∧
  assembleText "RDC SQRT_10001".toList = assemble (.rdc 24) ∧
  assembleText "RDC TICK_LOW_ERR".toList = assemble (.rdc 25) ∧
  assembleText "RDC TICK_HIGH_ERR".toList = assemble (.rdc 26)
end

