-- ==== Sys2Proof/Laws/Datapath.lean ====
section
/-! SUPPORT. The arithmetic primitives as integer facts, and the steps of the datapath in the form the rules give them. -/

namespace Sys2Proof.Laws

open Sys2Proof.Machine

/-! ### Primitives (00_scope.md rule R10) -/

theorem mulWrap_toNat (a b : Word) : (mulWrap a b).toNat = a.toNat * b.toNat % 2 ^ 256 := BitVec.toNat_mul a b

/-- A product that fits does not wrap. -/
theorem mulWrap_toNat_of_lt {a b : Word} (h : a.toNat * b.toNat < 2 ^ 256) : (mulWrap a b).toNat = a.toNat * b.toNat := by
  rw [mulWrap_toNat, Nat.mod_eq_of_lt h]

theorem ushiftRight_toNat (a : Word) (n : Nat) : (a >>> n).toNat = a.toNat / 2 ^ n := by
  rw [BitVec.toNat_ushiftRight, Nat.shiftRight_eq_div_pow]

theorem sext256_toInt (a : Tick32) : (sext256 a).toInt = a.toInt := BitVec.toInt_signExtend_of_le (by decide)

/-! ### T2P -/

theorem chainStep_clear (rom : Vector Word 27) {a : Nat} (ratio : Word) {i : Fin 20} (h : a.testBit i.val = false) :
    chainStep rom a ratio i = ratio := by
  simp [chainStep, h]

theorem chainStep_set (rom : Vector Word 27) {a : Nat} (ratio : Word) {i : Fin 20} (h : a.testBit i.val = true) :
    chainStep rom a ratio i = mulWrap ratio (romK rom i) >>> 128 := by
  simp [chainStep, h]

/-! ### P2T -/

theorem squareQ127_toNat {r : Word} (h : r.toNat < 2 ^ 128) : (squareQ127 r).toNat = r.toNat * r.toNat / 2 ^ 127 := by
  unfold squareQ127
  rw [ushiftRight_toNat, mulWrap_toNat_of_lt]
  exact lt_of_lt_of_eq (Nat.mul_lt_mul'' h h) (by norm_num)

end Sys2Proof.Laws
end

