-- ==== Sys2Proof/Laws/State.lean ====
section
/-! SUPPORT. One lemma per field per update of State, so that no later proof unfolds a record update. -/

namespace Sys2Proof.Laws

open Sys2Proof.Machine

/-! ### closeEdge -/

@[simp] theorem closeEdge_rom (s t : State) : (s.closeEdge t).rom = t.rom := rfl

@[simp] theorem closeEdge_inflight (s t : State) :
    (s.closeEdge t).inflight = t.inflight.map Slot.tick ++ (s.accepted.map (newSlot s.fresh)).toList := rfl

@[simp] theorem closeEdge_phase (s t : State) : (s.closeEdge t).phase = s.phaseNow.next := rfl

@[simp] theorem closeEdge_inputs (s t : State) : (s.closeEdge t).inputs = s.inputs.tail := rfl

@[simp] theorem closeEdge_log (s t : State) :
    (s.closeEdge t).log = t.log ++ (s.accepted.map Event.accept).toList := rfl

@[simp] theorem closeEdge_fresh (s t : State) : (s.closeEdge t).fresh = s.fresh + 1 := rfl

/-! ### resetEdge -/

@[simp] theorem resetEdge_rom (s : State) : s.resetEdge.rom = s.rom := rfl

@[simp] theorem resetEdge_inflight (s : State) : s.resetEdge.inflight = [] := rfl

@[simp] theorem resetEdge_phase (s : State) : s.resetEdge.phase = .reset := rfl

@[simp] theorem resetEdge_inputs (s : State) : s.resetEdge.inputs = s.inputs.tail := rfl

@[simp] theorem resetEdge_log (s : State) : s.resetEdge.log = s.log ++ [.reset] := rfl

@[simp] theorem resetEdge_fresh (s : State) : s.resetEdge.fresh = s.fresh + 1 := rfl

/-! ### withFetchWord -/

@[simp] theorem withFetchWord_rom (s : State) (n w : Nat) : (s.withFetchWord n w).rom = s.rom := rfl

@[simp] theorem withFetchWord_inflight (s : State) (n w : Nat) :
    (s.withFetchWord n w).inflight = ⟨requestOfNat n w, 0⟩ :: s.inflight.tail := rfl

@[simp] theorem withFetchWord_phase (s : State) (n w : Nat) : (s.withFetchWord n w).phase = .run := rfl

@[simp] theorem withFetchWord_inputs (s : State) (n w : Nat) :
    (s.withFetchWord n w).inputs = Pins.take :: s.inputs.tail := rfl

@[simp] theorem withFetchWord_log (s : State) (n w : Nat) : (s.withFetchWord n w).log = s.log := rfl

@[simp] theorem withFetchWord_fresh (s : State) (n w : Nat) : (s.withFetchWord n w).fresh = s.fresh := rfl

/-! ### slots and pins -/

@[simp] theorem tick_req (slot : Slot) : slot.tick.req = slot.req := rfl

@[simp] theorem tick_wait (slot : Slot) : slot.tick.wait = slot.wait - 1 := rfl

@[simp] theorem newSlot_req (fresh : Nat) (r : Request) : (newSlot fresh r).req = r := rfl

@[simp] theorem newSlot_wait (fresh : Nat) (r : Request) :
    (newSlot fresh r).wait = latencyOf r + Config.extraDelay fresh := rfl

theorem pins_of_inputs (s : State) {p : Pins} {ps : List Pins} (h : s.inputs = p :: ps) : s.pins = p := by
  simp [State.pins, h]

theorem pins_of_no_inputs (s : State) (h : s.inputs = []) : s.pins = Pins.idle := by
  simp [State.pins, h]

end Sys2Proof.Laws
end

