-- ==== Sys2Proof/Laws/Ops.lean ====
section
/-! SUPPORT. What each shared operation can do, said once: answering, the signals, a meaning, the respond part of an edge, an edge. -/

namespace Sys2Proof.Laws

open Sys2Proof.Machine

/-! ### Answering -/

theorem answer_cons (s : State) (rsp : Response) {slot : Slot} {rest : List Slot} (h : s.inflight = slot :: rest) :
    s.answer rsp = .next { s with inflight := rest, log := s.log ++ [.respond rsp] } := by
  simp [State.answer, h]

theorem answer_nil (s : State) (rsp : Response) (h : s.inflight = []) : s.answer rsp = .fault .nothingInFlight := by
  simp [State.answer, h]

/-- Everything an answer that goes on does. -/
theorem answer_next {s t : State} {rsp : Response} (h : s.answer rsp = .next t) :
    ∃ slot rest, s.inflight = slot :: rest ∧
      t = { s with inflight := rest, log := s.log ++ [.respond rsp] } := by
  cases hq : s.inflight with
  | nil => simp [State.answer, hq] at h
  | cons slot rest =>
    rw [answer_cons s rsp hq] at h
    exact ⟨slot, rest, rfl, (Host.Outcome.next.inj h).symm⟩

/-- A meaning answers with the response of its operation and does nothing else. -/
theorem exec_eq_answer (i : Instr) (s : State) : exec i s = s.answer (opResponse s.rom i) := by
  cases i <;> rfl

/-- The respond part of an edge answers with the response of the oldest request. -/
theorem respondHead_cons (s : State) {slot : Slot} {rest : List Slot} (h : s.inflight = slot :: rest) :
    respondHead s = s.answer (respondTo s.rom slot.req) := by
  have hf : s.fetch = some (decode slot.req) := by simp [State.fetch, h]
  unfold respondHead respondTo
  rw [hf]
  cases decode slot.req with
  | ok i => exact exec_eq_answer i s
  | error e => rfl

/-! ### Phases and signals -/

@[simp] theorem warm_zero : Phase.warm 0 = .run := rfl

@[simp] theorem warm_succ (n : Nat) : Phase.warm (n + 1) = .warmup (n + 1) := rfl

theorem warm_next (n : Nat) : (Phase.warm n).next = Phase.warm (n - 1) := by
  cases n <;> rfl

theorem phaseNow_of_rst (s : State) (h : s.pins.rst = true) : s.phaseNow = .reset := by
  simp [State.phaseNow, h]

theorem phaseNow_of_run (s : State) (h : s.pins.rst = false) (hp : s.phase = .run) : s.phaseNow = .run := by
  simp [State.phaseNow, h, hp]

theorem reqReady_iff (s : State) :
    s.reqReady = true ↔ s.phaseNow = .run ∧ s.inflight.length < Config.maxInflight := by
  simp [State.reqReady]

theorem rspValid_iff (s : State) :
    s.rspValid = true ↔ s.phaseNow = .run ∧ ∃ slot rest, s.inflight = slot :: rest ∧ slot.wait = 0 := by
  cases h : s.inflight <;> simp [State.rspValid, State.headDue, h]

theorem rspTaken_iff (s : State) :
    s.rspTaken = true ↔ s.pins.rspReady = true ∧ s.phaseNow = .run ∧
      ∃ slot rest, s.inflight = slot :: rest ∧ slot.wait = 0 := by
  rw [State.rspTaken, Bool.and_eq_true, rspValid_iff]

/-- Nothing is offered or taken while `rst = 1`. -/
theorem rst_of_phaseNow_run (s : State) (h : s.phaseNow = .run) : s.pins.rst = false := by
  cases hr : s.pins.rst with
  | false => rfl
  | true => rw [phaseNow_of_rst s hr] at h; cases h

theorem accepted_some_iff (s : State) (r : Request) :
    s.accepted = some r ↔ s.pins.reqValid = true ∧ s.reqReady = true ∧ r = ⟨s.pins.reqCmd, s.pins.reqOpd⟩ := by
  unfold State.accepted
  cases s.pins.reqValid <;> cases s.reqReady <;> simp [eq_comm]

/-! ### The edge -/

/-- Everything an edge can do: reset, answer and close, or close. -/
theorem step_cases (s : State) :
    (s.pins.rst = true ∧ step s = .next s.resetEdge) ∨
    (s.pins.rst = false ∧ s.rspTaken = true ∧ ∃ slot rest, s.inflight = slot :: rest ∧
      step s = .next (s.closeEdge
        { s with inflight := rest, log := s.log ++ [.respond (respondTo s.rom slot.req)] })) ∨
    (s.pins.rst = false ∧ s.rspTaken = false ∧ step s = .next (s.closeEdge s)) := by
  cases hr : s.pins.rst with
  | true => exact .inl ⟨rfl, by simp [step, hr]⟩
  | false =>
    cases ht : s.rspTaken with
    | false => exact .inr (.inr ⟨rfl, rfl, by simp [step, hr, ht]⟩)
    | true =>
      obtain ⟨-, -, slot, rest, hq, -⟩ := (rspTaken_iff s).mp ht
      refine .inr (.inl ⟨rfl, rfl, slot, rest, hq, ?_⟩)
      simp only [step, hr, ht, if_true, Bool.false_eq_true, if_false]
      rw [respondHead_cons s hq, answer_cons s _ hq]
      rfl

end Sys2Proof.Laws
end

