-- ==== Sys2Proof/Laws/PerInstr.lean ====
section
/-! SUPPORT. Facts stated of every operation as syntax, one lemma per constructor of Instr. -/

namespace Sys2Proof.Laws.EncodedFields

/-- The fields of an encoding: `RSV` zero, an opcode of rule R61 (30_encoding.md rules R60, R61). -/
def Statement (i : Instr) : Prop :=
  rsvField (encode i).cmd = 0#16 ∧
    (opField (encode i).cmd = 0x01#8 ∨ opField (encode i).cmd = 0x02#8 ∨ opField (encode i).cmd = 0x03#8)

theorem rsvField_commandWord (op idx : BitVec 8) : rsvField (commandWord op idx) = 0#16 := by
  unfold rsvField commandWord
  ext i hi
  simp only [BitVec.getElem_extractLsb', BitVec.getLsbD_or, BitVec.getLsbD_shiftLeft, BitVec.getLsbD_setWidth]
  simp [BitVec.getLsbD_of_ge idx (16 + i - 8) (by omega), BitVec.getLsbD_of_ge op (16 + i) (by omega)]

theorem opField_commandWord (op idx : BitVec 8) : opField (commandWord op idx) = op := by
  unfold opField commandWord
  ext i hi
  simp [BitVec.getElem_extractLsb', hi]
  omega

theorem idxField_commandWord (op idx : BitVec 8) : idxField (commandWord op idx) = idx := by
  unfold idxField commandWord
  ext i hi
  have h1 : 8 + i < 32 := by omega
  simp [BitVec.getElem_extractLsb', hi, h1]

theorem t2p (opd : Word) : Statement (.t2p opd) :=
  ⟨rsvField_commandWord _ _, .inl (opField_commandWord _ _)⟩

theorem p2t (opd : Word) : Statement (.p2t opd) :=
  ⟨rsvField_commandWord _ _, .inr (.inl (opField_commandWord _ _))⟩

theorem rdc (idx : BitVec 8) (opd : Word) : Statement (.rdc idx opd) :=
  ⟨rsvField_commandWord _ _, .inr (.inr (opField_commandWord _ _))⟩

end Sys2Proof.Laws.EncodedFields
end

