-- ==== Sys2Proof/Laws/Runs.lean ====
section
/-! SUPPORT. What one edge does to the pins, the phase and the log, and how runs of several edges and of several events part. -/

namespace Sys2Proof.Laws

open Sys2Proof.Machine Sys2Proof.Safety

/-! ### Runs of edges -/

theorem core_run_succ (M : Host.Core) (k : Nat) (s : M.State) :
    M.run (k + 1) s = (match M.step s with
      | .next t => M.run k t
      | .fault f => .fault f
      | .refused r => .refused r) := rfl

theorem run_succ (k : Nat) (s t : State) (h : step s = .next t) :
    Sys2Proof.core.run (k + 1) s = Sys2Proof.core.run k t := by
  have e := core_run_succ Sys2Proof.core k s
  have h' : Sys2Proof.core.step s = .next t := h
  rw [h'] at e
  exact e

theorem step_inputs {s t : State} (h : step s = .next t) : t.inputs = s.inputs.tail := by
  rcases step_cases s with ⟨-, h'⟩ | ⟨-, -, _, _, -, h'⟩ | ⟨-, -, h'⟩ <;> rw [h'] at h <;> cases h <;> rfl

theorem step_phase {s t : State} (h : step s = .next t) (hr : s.pins.rst = false) : t.phase = s.phaseNow.next := by
  rcases step_cases s with ⟨h1, -⟩ | ⟨-, -, _, _, -, h'⟩ | ⟨-, -, h'⟩
  · rw [hr] at h1; cases h1
  all_goals rw [h'] at h; cases h; rfl

/-- A host that never asserts reset does not assert it now. -/
theorem pins_rst (s : State) (h : ∀ p ∈ s.inputs, p.rst = false) : s.pins.rst = false := by
  cases hi : s.inputs with
  | nil => rw [pins_of_no_inputs s hi]; rfl
  | cons p ps => rw [pins_of_inputs s hi]; exact h p (by simp [hi])

theorem phaseNow_of_warm (s : State) (n : Nat) (h : s.pins.rst = false) (hp : s.phase = Phase.warm n) :
    s.phaseNow = Phase.warm n := by
  cases n <;> simp [State.phaseNow, h, hp]

/-- An edge that takes a response. -/
theorem step_of_taken (s : State) {slot : Slot} {rest : List Slot} (h : s.inflight = slot :: rest)
    (ht : s.rspTaken = true) : step s = .next (s.closeEdge (answered s rest (respondTo s.rom slot.req))) := by
  have hr := rst_of_phaseNow_run s ((rspTaken_iff s).mp ht).2.1
  rcases step_cases s with ⟨h1, -⟩ | ⟨-, -, a, b, hq, hs⟩ | ⟨-, h1, -⟩
  · rw [hr] at h1; cases h1
  · rw [h] at hq; cases hq; exact hs
  · rw [ht] at h1; cases h1

/-! ### Logs -/

@[simp] theorem answered_rom (s : State) (rest : List Slot) (rsp : Response) : (answered s rest rsp).rom = s.rom := rfl

@[simp] theorem answered_inflight (s : State) (rest : List Slot) (rsp : Response) :
    (answered s rest rsp).inflight = rest := rfl

@[simp] theorem answered_phase (s : State) (rest : List Slot) (rsp : Response) :
    (answered s rest rsp).phase = s.phase := rfl

@[simp] theorem answered_inputs (s : State) (rest : List Slot) (rsp : Response) :
    (answered s rest rsp).inputs = s.inputs := rfl

@[simp] theorem answered_log (s : State) (rest : List Slot) (rsp : Response) :
    (answered s rest rsp).log = s.log ++ [.respond rsp] := rfl

@[simp] theorem answered_fresh (s : State) (rest : List Slot) (rsp : Response) :
    (answered s rest rsp).fresh = s.fresh := rfl

@[simp] theorem delivered_append (a b : List Event) :
    deliveredResponses (a ++ b) = deliveredResponses a ++ deliveredResponses b := by
  simp [deliveredResponses]

@[simp] theorem delivered_respond (rsp : Response) : deliveredResponses [.respond rsp] = [rsp] := rfl

@[simp] theorem delivered_reset : deliveredResponses [.reset] = [] := rfl

@[simp] theorem delivered_cons_respond (rsp : Response) (l : List Event) :
    deliveredResponses (.respond rsp :: l) = rsp :: deliveredResponses l := rfl

@[simp] theorem delivered_cons_accept (r : Request) (l : List Event) :
    deliveredResponses (.accept r :: l) = deliveredResponses l := rfl

@[simp] theorem delivered_cons_reset (l : List Event) : deliveredResponses (.reset :: l) = deliveredResponses l := rfl

@[simp] theorem delivered_accepts (o : Option Request) : deliveredResponses (o.map Event.accept).toList = [] := by
  cases o <;> rfl

@[simp] theorem accepted_append (a b : List Event) :
    acceptedRequests (a ++ b) = acceptedRequests a ++ acceptedRequests b := by
  simp [acceptedRequests]

@[simp] theorem accepted_respond (rsp : Response) : acceptedRequests [.respond rsp] = [] := rfl

@[simp] theorem accepted_reset : acceptedRequests [.reset] = [] := rfl

@[simp] theorem accepted_cons_respond (rsp : Response) (l : List Event) :
    acceptedRequests (.respond rsp :: l) = acceptedRequests l := rfl

@[simp] theorem accepted_cons_accept (r : Request) (l : List Event) :
    acceptedRequests (.accept r :: l) = r :: acceptedRequests l := rfl

@[simp] theorem accepted_cons_reset (l : List Event) : acceptedRequests (.reset :: l) = acceptedRequests l := rfl

@[simp] theorem accepted_accepts (o : Option Request) : acceptedRequests (o.map Event.accept).toList = o.toList := by
  cases o <;> rfl

/-- Where accept and respond are both enabled, whatever the capacity, either order leads to the same queue, or to none. -/
theorem accept_respond_commute {cap : Nat} {q : List Request} (r : Request) (rsp : Response) (hq : q ≠ [])
    (hl : q.length < cap) :
    replayStep cap (replayStep cap (some q) (.accept r)) (.respond rsp) =
      replayStep cap (replayStep cap (some q) (.respond rsp)) (.accept r) := by
  cases q with
  | nil => exact absurd rfl hq
  | cons a q =>
    have hl' : q.length < cap := Nat.lt_of_succ_lt hl
    by_cases h : rsp = Reference.exec a <;> simp_all [replayStep]

/-! ### The progress of a run -/

theorem runProgress_append (n : Nat) (a b : List Event) :
    runProgress n (a ++ b) = b.foldl RunProgress.event (runProgress n a) := by
  simp [runProgress]

@[simp] theorem event_accept (p : RunProgress) (r : Request) :
    p.event (.accept r) = { p with waiting := p.waiting ++ [r] } := rfl

@[simp] theorem event_reset (p : RunProgress) :
    p.event .reset = ⟨0, [], p.taken, p.dropped || !p.waiting.isEmpty⟩ := rfl

@[simp] theorem event_respond_older (n : Nat) (w : List Request) (k : List (Request × Response)) (d : Bool)
    (rsp : Response) : RunProgress.event ⟨n + 1, w, k, d⟩ (.respond rsp) = ⟨n, w, k, d⟩ := rfl

@[simp] theorem event_respond_own (r : Request) (w : List Request) (k : List (Request × Response)) (d : Bool)
    (rsp : Response) : RunProgress.event ⟨0, r :: w, k, d⟩ (.respond rsp) = ⟨0, w, k ++ [(r, rsp)], d⟩ := rfl

/-- What a run has dropped stays dropped. -/
theorem event_dropped (p : RunProgress) (e : Event) (h : p.dropped = true) : (p.event e).dropped = true := by
  cases e with
  | accept r => exact h
  | reset => simp [h]
  | respond rsp =>
    obtain ⟨n, w, k, d⟩ := p
    cases n with
    | succ n => exact h
    | zero => cases w <;> exact h

theorem events_dropped (events : List Event) : ∀ p : RunProgress, p.dropped = true →
    (events.foldl RunProgress.event p).dropped = true := by
  induction events with
  | nil => exact fun p h => h
  | cons e events ih => exact fun p h => ih _ (event_dropped p e h)

theorem replay_append (a b : List Event) :
    replay (a ++ b) = b.foldl (replayStep Config.maxInflight) (replay a) := by
  simp [replay]

end Sys2Proof.Laws
end

