-- ==== Sys2Proof/Tests/Slice0.lean ====
section
/-! SUPPORT. Tests: expected values from spec/95_test_vectors.md (named beside each), the WellFormed smoke, decoding of written-out words, and a witness for the hypotheses of each statement that has any. -/

namespace Sys2Proof.Tests

open Sys2Proof.Machine Sys2Proof.Safety

/-- One request at the head of the queue, due, with a host that takes its response. -/
def requestState (cmd : BitVec 32) (opd : Word) : State :=
  { State.reset with phase := .run, inflight := [⟨⟨cmd, opd⟩, 0⟩], inputs := [Pins.take] }

/-- The last response delivered, if the outcome is a next state. -/
def lastResponse : Host.Outcome State Fault Refusal → Option Response
  | .next t => (deliveredResponses t.log).getLast?
  | .fault _ => none
  | .refused _ => none

/-! ### WellFormed: each check refuses an ill-formed term -/

theorem test_wf_rdc_27_refused : Instr.wellFormed (.rdc 27#8 0#256) = false := by decide

theorem test_wf_rdc_26_ok : Instr.wellFormed (.rdc 26#8 0#256) = true := by decide

theorem test_wf_conversions_ok :
    Instr.wellFormed (.t2p (BitVec.allOnes 256)) = true ∧ Instr.wellFormed (.p2t (BitVec.allOnes 256)) = true := by decide

/-! ### Decoding of words written out from rules R60 and R61 -/

/-- `RSV` 16 zeros, `IDX` 0, `OP` 00000001. -/
theorem test_decode_t2p :
    decode ⟨0b00000000000000000000000000000001#32, 5#256⟩ = .ok (.t2p 5#256) := by decide

/-- `RSV` 16 zeros, `IDX` 0, `OP` 00000010. -/
theorem test_decode_p2t :
    decode ⟨0b00000000000000000000000000000010#32, 5#256⟩ = .ok (.p2t 5#256) := by decide

/-- `RSV` 16 zeros, `IDX` 00010110 (22), `OP` 00000011: `RDC MIN_SQRT_RATIO` of rule R75. -/
theorem test_decode_rdc :
    decode ⟨0b00000000000000000001011000000011#32, 0#256⟩ = .ok (.rdc 22#8 0#256) := by decide

/-- The decode table of 95_test_vectors.md, L2: one word for each case of rule R68. -/
theorem test_decode_illegal :
    decode ⟨0x00000000#32, 0#256⟩ = .error .reservedOpcode ∧ decode ⟨0x000000ff#32, 0#256⟩ = .error .reservedOpcode ∧
    decode ⟨0x00010001#32, 0#256⟩ = .error .reservedFieldNonZero ∧
    decode ⟨0x80000002#32, 0#256⟩ = .error .reservedFieldNonZero ∧
    decode ⟨0x00000101#32, 0#256⟩ = .error .indexNonZero ∧ decode ⟨0x00000102#32, 0#256⟩ = .error .indexNonZero ∧
    decode ⟨0x00001b03#32, 0#256⟩ = .error .romIndexOutOfRange := by decide

theorem test_decode_table_words :
    decodeTableWord 32 1 = some (.t2p 0#256) ∧ decodeTableWord 288 (0x700000002) = some (.p2t 7#256) ∧
    decodeTableWord 32 0x1a03 = some (.rdc 26#8 0#256) ∧ decodeTableWord 32 0 = none := by decide

/-! ### One step an operation -/

/-- 95_test_vectors.md V3. -/
theorem test_t2p_50 : lastResponse (step (requestState 0x1#32 50#256)) =
    some ⟨.ok, 79426470787362580746886972461#256⟩ := by decide +kernel

/-- 95_test_vectors.md V9. -/
theorem test_t2p_below_min : lastResponse (step (requestState 0x1#32 (BitVec.ofInt 256 (-887273)))) =
    some ⟨.tickOutOfRange, 0#256⟩ := by decide +kernel

/-- 95_test_vectors.md P4: the `low` branch. -/
theorem test_p2t_low_branch : lastResponse (step (requestState 0x2#32 79426470787362580746886972460#256)) =
    some ⟨.ok, 49#256⟩ := by decide +kernel

/-- 95_test_vectors.md V6: the `high` branch, a negative tick sign-extended. -/
theorem test_p2t_min : lastResponse (step (requestState 0x2#32 4295128739#256)) =
    some ⟨.ok, 0xfffffffffffffffffffffffffffffffffffffffffffffffffffffffffff27618#256⟩ := by decide +kernel

/-- 95_test_vectors.md, RDC table, index 20. -/
theorem test_rdc_min_tick : lastResponse (step (requestState 0x1403#32 0#256)) =
    some ⟨.ok, 0xfffffffffffffffffffffffffffffffffffffffffffffffffffffffffff27618#256⟩ := by decide +kernel

/-- 95_test_vectors.md, RDC table, the row whose `OPD` is all ones. -/
theorem test_rdc_ignores_opd : lastResponse (step (requestState 0x1603#32 (BitVec.allOnes 256))) =
    some ⟨.ok, 0x1000276a3#256⟩ := by decide +kernel

/-- 95_test_vectors.md, decode table: the decode check comes before the range check. -/
theorem test_illegal_before_range : lastResponse (step (requestState 0x101#32 0xf4240#256)) =
    some ⟨.illegalRequest, 0#256⟩ := by decide +kernel

/-- 95_test_vectors.md, trace of `T2P -3`: the accumulator after the chain. -/
theorem test_t2p_trace : chainRatio Config.romImage 3 = 0xfff62bbb6d458ec3c792106391dc463e#256 := by decide +kernel

/-- 95_test_vectors.md, trace of `P2T 730750818665451459101842416358141509827966271488`: the `equal` branch. -/
theorem test_p2t_trace_equal :
    let path := p2tPath Config.romImage 0x8000000000000000000000000000000000000000#256;
    path.msb = 191#256 ∧ path.r = 0x80000000000000000000000000000000#256 ∧ path.log2 = 0x3f0000000000000000#256 ∧
      path.tickLow = 873409#32 ∧ path.tickHigh = 873409#32 := by decide +kernel

/-- 95_test_vectors.md, trace of `P2T 79426470787362580746886972461`. -/
theorem test_p2t_trace_50 :
    let path := p2tPath Config.romImage 79426470787362580746886972461#256;
    path.msb = 128#256 ∧ path.r = 0x805204b4834bb7884062021680000000#256 ∧ path.log2 = 0xec000000000000#256 ∧
      path.logSqrt10001.toInt = 16988251736707331615864544440600080941056 ∧
      path.tickLow = 49#32 ∧ path.tickHigh = 50#32 := by decide +kernel

/-- The integer rules give the same vectors: V1, V5 and two rows of the P2T table. -/
theorem test_reference_vectors :
    Reference.price (-887272) = 4295128739 ∧
    Reference.price 738203 = 847134979253254120489401328389043031315994541 ∧
    Reference.tick 18446744073709551616 = -443637 ∧
    Reference.tick 1461446703485210103287273052203988822378723970341 = 887271 := by decide +kernel

/-! ### Edges -/

/-- A request waiting at the pins is accepted by an engine in phase Run with an empty queue (rules R163, R165). -/
def offeringState : State :=
  { State.reset with phase := .run, inputs := [⟨false, true, 0x1403#32, 9#256, false⟩] }

theorem test_accept : (match step offeringState with
    | .next t => t.inflight.map Slot.req
    | _ => []) = [⟨0x1403#32, 9#256⟩] := by decide

/-- 95_test_vectors.md P6, step 4: reset drops what is in flight. -/
theorem test_reset_drops : (match step { requestState 0x2#32 0x1000276a3#256 with
      inputs := [⟨true, false, 0#32, 0#256, true⟩] } with
    | .next t => (t.inflight, deliveredResponses t.log)
    | _ => ([⟨⟨0#32, 0#256⟩, 0⟩], [])) = ([], []) := by decide

theorem test_fetch_word : lastResponse (step (State.reset.withFetchWord 32 0x1503)) = some ⟨.ok, 887272#256⟩ := by
  decide +kernel

/-! ### Text -/

/-- Rule R75, as text. -/
theorem test_text_requests :
    assembleText "T2P -887272".toList =
      some ⟨0x1#32, 0xfffffffffffffffffffffffffffffffffffffffffffffffffffffffffff27618#256⟩ ∧
    assembleText "P2T 4295128739".toList = some ⟨0x2#32, 0x1000276a3#256⟩ ∧
    assembleText "RDC MIN_SQRT_RATIO".toList = some ⟨0x1603#32, 0#256⟩ ∧
    assembleText ".req 0x00000004, 0x0".toList = some ⟨0x4#32, 0#256⟩ ∧ assembleText "RDC 256".toList = none := by
  decide +kernel

/-- 95_test_vectors.md V6 and V8, as text. -/
theorem test_text_responses :
    responseText ⟨0x2#32, 4295128739#256⟩ ⟨.ok, BitVec.ofInt 256 (-887272)⟩ = "-> OK -887272".toList ∧
    responseText ⟨0x1#32, 887273#256⟩ ⟨.tickOutOfRange, 0#256⟩ = "-> TICK_OUT_OF_RANGE 0".toList := by decide +kernel

/-! ### Witnesses: a concrete state and operands for the hypotheses of each statement -/

/-- The request in flight of `requestState`. -/
def theSlot (cmd : BitVec 32) (opd : Word) : Slot := ⟨⟨cmd, opd⟩, 0⟩

theorem witness_DecodeOfEncodeIsIdentity : Instr.wellFormed (.rdc 26#8 1#256) = true := by decide

theorem witness_EncodeOfDecodeIsIdentity : decode ⟨0x1a03#32, 1#256⟩ = .ok (.rdc 26#8 1#256) := by decide

theorem witness_IllegalRequestsAreAnsweredInOrder :
    (requestState 0x1b03#32 0#256).inflight = [theSlot 0x1b03#32 0#256] ∧
    decode (theSlot 0x1b03#32 0#256).req = .error .romIndexOutOfRange ∧
    (requestState 0x1b03#32 0#256).rspTaken = true := by decide

theorem witness_StepRunsTheDecodedOperation :
    (requestState 0x1a03#32 0#256).inflight = [theSlot 0x1a03#32 0#256] ∧
    decode (theSlot 0x1a03#32 0#256).req = .ok (.rdc 26#8 0#256) ∧ (requestState 0x1a03#32 0#256).rspTaken = true := by
  decide

theorem witness_EveryResponseIsExecOfItsRequest :
    (requestState 0x1#32 0#256).rom = Config.romImage ∧ (requestState 0x1#32 0#256).rspTaken = true := by decide

theorem witness_MeaningWithoutRequestStops : State.reset.inflight = [] := rfl

theorem witness_OperationsFrame : ∃ t, exec (.rdc 0#8 0#256) (requestState 0x3#32 0#256) = .next t := ⟨_, rfl⟩

/-- Both ends of T2P's range. -/
theorem witness_T2PInRangeRespondsPrice :
    (requestState 0x1#32 887272#256).rom = Config.romImage ∧
    (requestState 0x1#32 887272#256).inflight = [theSlot 0x1#32 887272#256] ∧
    -887272 ≤ (887272#256).toInt ∧ (887272#256).toInt ≤ 887272 ∧
    -887272 ≤ (BitVec.ofInt 256 (-887272)).toInt ∧ (BitVec.ofInt 256 (-887272)).toInt ≤ 887272 := by decide

/-- The first operand past each end, and the most negative one. -/
theorem witness_T2POutOfRangeResponds :
    (requestState 0x1#32 887273#256).rom = Config.romImage ∧
    (requestState 0x1#32 887273#256).inflight = [theSlot 0x1#32 887273#256] ∧
    (887272 < (887273#256).toInt) ∧ ((BitVec.ofInt 256 (-887273)).toInt < -887272) ∧
    ((BitVec.intMin 256).toInt < -887272) := by decide

/-- A set bit and a clear one at the last position of the chain, and the first one. -/
theorem witness_MultiplierChainSteps :
    (524288).testBit 19 = true ∧ (524287).testBit 19 = false ∧ (1).testBit 0 = true := by decide

theorem witness_ReciprocalForPositiveTicksOnly : (0 : Int) < 1 ∧ (1#256 : Word) ≠ 0#256 ∧ (0 : Int) ≤ 0 := by decide

theorem witness_T2PChainBounds : (887272 : Nat) ≤ 887272 ∧ (19 : Nat) ≤ 19 ∧ (18 : Nat) < 19 ∧
    (887272).testBit 19 = true ∧ (-887272 : Int) ≤ -887272 ∧ (-887272 : Int) ≤ 887272 := by decide

theorem witness_T2PIsStrictlyIncreasing :
    (-887272 : Int) ≤ -887272 ∧ (-887272 : Int) < 887272 ∧ (887272 : Int) ≤ 887272 := by decide

theorem witness_T2POfZeroIsOne : (requestState 0x1#32 0#256).rom = Config.romImage ∧
    (requestState 0x1#32 0#256).inflight = [theSlot 0x1#32 0#256] := by decide

/-- Both ends of P2T's range. -/
theorem witness_P2TInRangeRespondsTick :
    (requestState 0x2#32 4295128739#256).rom = Config.romImage ∧
    (requestState 0x2#32 4295128739#256).inflight = [theSlot 0x2#32 4295128739#256] ∧
    4295128739 ≤ (4295128739#256).toNat ∧
    (1461446703485210103287273052203988822378723970341#256).toNat <
      1461446703485210103287273052203988822378723970342 := by decide

/-- The first price past each end. -/
theorem witness_P2TOutOfRangeResponds :
    (requestState 0x2#32 4295128738#256).rom = Config.romImage ∧
    (requestState 0x2#32 4295128738#256).inflight = [theSlot 0x2#32 4295128738#256] ∧
    ¬ (4295128739 ≤ (4295128738#256).toNat ∧
      (4295128738#256).toNat < 1461446703485210103287273052203988822378723970342) ∧
    ¬ (4295128739 ≤ (1461446703485210103287273052203988822378723970342#256).toNat ∧
      (1461446703485210103287273052203988822378723970342#256).toNat <
        1461446703485210103287273052203988822378723970342) := by decide

/-- The smallest and the largest price in range: the hypothesis of every P2T statement over `priceInRange`
(BitLengthSearchIsMsb, WorkingValueIsNormalised, P2TNeverWraps, CandidatesBracketTheTick, P2TResultRange,
P2TIsGreatestTickBelow). -/
theorem witness_priceInRange :
    priceInRange Config.romImage 4295128739#256 = true ∧
    priceInRange Config.romImage 1461446703485210103287273052203988822378723970341#256 = true := by decide

/-- Both ends of the shifting steps. -/
theorem witness_BitLengthSearchIsMsb : (1 : Nat) ≤ 1 ∧ (1 : Nat) ≤ 7 ∧ (7 : Nat) ≤ 7 ∧ (1#256 : Word) ≠ 0#256 := by decide

theorem witness_LogAccumulatorStart : (0#256).toNat < 256 ∧ (255#256).toNat < 256 := by decide

/-- One price for each outcome: equal, high, low (95_test_vectors.md P4). -/
theorem witness_DisambiguationChoosesCandidate :
    (let path := p2tPath Config.romImage 0x8000000000000000000000000000000000000000#256;
      path.tickLow = path.tickHigh) ∧
    (let path := p2tPath Config.romImage 79426470787362580746886972461#256;
      path.tickLow ≠ path.tickHigh ∧
      (t2pOp Config.romImage path.tickHigh.toInt).result.toNat ≤ 79426470787362580746886972461) ∧
    (let path := p2tPath Config.romImage 79426470787362580746886972460#256;
      path.tickLow ≠ path.tickHigh ∧
      79426470787362580746886972460 < (t2pOp Config.romImage path.tickHigh.toInt).result.toNat) := by decide +kernel

theorem witness_P2TIsGreatestTickBelow :
    (p2tOp Config.romImage 4295128739#256).result.toInt < -887271 ∧ (-887271 : Int) ≤ 887272 := by decide +kernel

theorem witness_RdcRespondsRomEntry : (requestState 0x1a03#32 0#256).rom = Config.romImage ∧
    (requestState 0x1a03#32 0#256).inflight = [theSlot 0x1a03#32 0#256] ∧ (26#8).toNat ≤ 26 := by decide

theorem witness_RdcBeyondRomIsIllegal :
    (requestState 0x1b03#32 0#256).inflight = [theSlot 0x1b03#32 0#256] ∧ 26 < (27#8).toNat := by decide

theorem witness_RomNeverChanges : ∃ t, step State.reset = .next t := ⟨_, rfl⟩

theorem witness_ErrorsChangeNothingElse : (requestState 0x2#32 0#256).rspTaken = true ∧
    (requestState 0x2#32 0#256).inflight = [theSlot 0x2#32 0#256] ∧
    (respondTo Config.romImage (theSlot 0x2#32 0#256).req).status ≠ .ok := by decide

theorem witness_ResponsesIgnoreContext :
    (requestState 0x3#32 1#256).inflight = [theSlot 0x3#32 1#256] ∧ (requestState 0x3#32 1#256).rspTaken = true ∧
    ∃ t, step (requestState 0x3#32 1#256) = .next t := ⟨rfl, by decide, _, rfl⟩

/-- `rst = 1`, and a phase other than Run. -/
theorem witness_ResetStateAndOutputs :
    ({ State.reset with inputs := [⟨true, true, 0#32, 0#256, true⟩] } : State).pins.rst = true ∧
    ({ State.reset with phase := .warmup 1 } : State).phaseNow ≠ .run := by decide

theorem witness_ResetAloneDropsRequests :
    ({ State.reset with inputs := [⟨true, true, 0#32, 0#256, true⟩] } : State).pins.rst = true ∧
    (requestState 0x3#32 1#256).pins.rst = false ∧ ∃ t, step (requestState 0x3#32 1#256) = .next t :=
  ⟨by decide, by decide, _, rfl⟩

theorem witness_WarmupThenRun :
    ({ State.reset with phase := .reset } : State).phase = .reset ∧
    (∀ p ∈ ({ State.reset with phase := .reset } : State).inputs, p.rst = false) ∧
    ∃ t, Sys2Proof.core.run 2 { State.reset with phase := .reset } = .next t :=
  ⟨rfl, by decide, _, rfl⟩

/-- An edge that accepts, and one that offers nothing. -/
theorem witness_AcceptanceSamplesThePins :
    offeringState.pins.reqValid = true ∧ offeringState.reqReady = true ∧ offeringState.pins.rst = false ∧
    (requestState 0x3#32 1#256).inputs = [Pins.take] ∧
    (Pins.take.reqValid && (requestState 0x3#32 1#256).reqReady) = false ∧
    (∃ t, step (requestState 0x3#32 1#256) = .next t) ∧
    ∃ u, step { requestState 0x3#32 1#256 with inputs := [{ Pins.take with reqValid := false }] } = .next u :=
  ⟨by decide, by decide, by decide, rfl, by decide, ⟨_, rfl⟩, _, rfl⟩

/-- A valid response that the host does not take, and one that it takes. -/
theorem witness_OfferedResponseIsStable :
    ({ requestState 0x3#32 1#256 with inputs := [] } : State).rspValid = true ∧
    ({ requestState 0x3#32 1#256 with inputs := [] } : State).pins.rspReady = false ∧
    (∃ t, step { requestState 0x3#32 1#256 with inputs := [] } = .next t ∧ t.pins.rst = false) ∧
    (requestState 0x3#32 1#256).rspTaken = true :=
  ⟨by decide, by decide, ⟨_, rfl, by decide⟩, by decide⟩

/-- One request of each operation, and an error. -/
theorem witness_ResponsePortsCarryExec :
    (requestState 0x1#32 0#256).rom = Config.romImage ∧ (requestState 0x1#32 0#256).rspValid = true ∧
    decode (theSlot 0x1#32 0#256).req = .ok (.t2p 0#256) ∧ (requestState 0x1#32 0#256).rspStatus = 0b00#2 ∧
    decode (theSlot 0x2#32 4295128739#256).req = .ok (.p2t 4295128739#256) ∧
    (requestState 0x2#32 4295128739#256).rspStatus = 0b00#2 ∧
    decode (theSlot 0x3#32 1#256).req = .ok (.rdc 0#8 1#256) ∧ (requestState 0x2#32 0#256).rspStatus ≠ 0b00#2 := by
  decide +kernel

/-- An empty queue, and a full one whatever MAX_INFLIGHT is. -/
theorem witness_BackPressure :
    offeringState.phaseNow = .run ∧
    Config.maxInflight ≤ (List.replicate Config.maxInflight (theSlot 0x3#32 1#256)).length ∧
    ∃ t, step { offeringState with inflight := List.replicate Config.maxInflight (theSlot 0x3#32 1#256) } = .next t := by
  refine ⟨by decide, by simp, ?_⟩
  rcases Laws.step_cases { offeringState with inflight := List.replicate Config.maxInflight (theSlot 0x3#32 1#256) }
    with ⟨-, h⟩ | ⟨-, -, _, _, -, h⟩ | ⟨-, -, h⟩ <;> exact ⟨_, h⟩

/-- One request waits and another joins it, and one that joins an empty queue. -/
theorem witness_LatencyIsALowerBound :
    offeringState.accepted = some ⟨0x1403#32, 9#256⟩ ∧
    (∃ t, step offeringState = .next t ∧ (∀ p ∈ t.inputs.take 0, p.rst = false) ∧
      ∃ u, Sys2Proof.core.run 0 t = .next u) ∧ 0 < latencyOf ⟨0x1403#32, 9#256⟩ ∧
    (1 < Config.maxInflight → ({ offeringState with inflight := [theSlot 0x3#32 1#256] } : State).accepted =
      some ⟨0x1403#32, 9#256⟩) :=
  ⟨by decide, ⟨_, rfl, by simp, _, rfl⟩, by decide, fun h => by
    simp [State.accepted, State.reqReady, State.phaseNow, State.pins, offeringState, h]⟩

/-- A head that must wait two edges more. -/
theorem witness_HeadIsEventuallyAnswered :
    let s : State := { State.reset with
      phase := .run, inflight := [⟨⟨0x3#32, 1#256⟩, 2⟩], inputs := [Pins.take, Pins.take, Pins.take] };
    s.rom = Config.romImage ∧ s.phase = .run ∧ s.inflight = [⟨⟨0x3#32, 1#256⟩, 2⟩] ∧ 2 < s.inputs.length ∧
      ∀ p ∈ s.inputs.take 3, p.rst = false ∧ p.rspReady = true := by decide

/-- What happened before a run: a request was accepted and dropped by reset. -/
def droppedEvents : List Event := [.accept ⟨0x2#32, 0x1000276a3#256⟩, .reset]

/-- What happened in a run of one request. -/
def answeredEvents : List Event := [.accept ⟨0x1503#32, 0#256⟩, .respond ⟨.ok, 887272#256⟩]

/-- A state with both in its log. -/
def answeredState : State := { State.reset with phase := .run, log := droppedEvents ++ answeredEvents }

theorem witness_EndedRunDeliversExecInOrder :
    EngineInv answeredState ∧ answeredState.log = droppedEvents ++ answeredEvents ∧ replay droppedEvents = some [] ∧
      runEnded 0 [⟨0x1503#32, 0#256⟩] answeredEvents :=
  ⟨⟨rfl, by decide, by decide, by decide +kernel⟩, rfl, by decide, by decide, by decide, by decide⟩

/-- 70_reset_and_hazards.md rule R169: begun with an older request in flight, a run whose own request is still in flight, or
was dropped by reset, has not ended, whatever was delivered; it has once the own response is taken. -/
theorem test_runEnded_older :
    let older := Event.respond ⟨.ok, 887272#256⟩;
    let own : Request := ⟨0x1503#32, 0#256⟩;
    ¬ runEnded 1 [own] [older, .accept own] ∧ ¬ runEnded 1 [own] [older, .accept own, .reset] ∧
    ¬ runEnded 1 [own] [.accept own, older] ∧ runEnded 1 [own] [.accept own, older, .respond ⟨.ok, 887272#256⟩] := by
  unfold runEnded
  decide

/-- A state with the run's own request in flight and a host that asserts `rst`. -/
def unfinishedState : State :=
  { requestState 0x1503#32 0#256 with
    inputs := [⟨true, false, 0#32, 0#256, false⟩], log := droppedEvents ++ [.accept ⟨0x1503#32, 0#256⟩] }

theorem witness_RequestInFlightOrDroppedEndsNoRun :
    EngineInv unfinishedState ∧ unfinishedState.log = droppedEvents ++ [.accept ⟨0x1503#32, 0#256⟩] ∧
      replay droppedEvents = some [] ∧ (runProgress 0 [.accept ⟨0x1503#32, 0#256⟩]).waiting ≠ [] ∧
      unfinishedState.pins.rst = true :=
  ⟨⟨rfl, by decide, by decide, by decide⟩, rfl, by decide, by decide, by decide⟩

theorem witness_EngineInvIsKept : EngineInv answeredState ∧ ∃ t, step answeredState = .next t :=
  ⟨witness_EndedRunDeliversExecInOrder.1, _, rfl⟩

/-- A due request, and a host that takes its response and offers another. -/
def exchangingState : State :=
  { requestState 0x1503#32 0#256 with
    inputs := [⟨false, true, 0x1403#32, 9#256, true⟩], log := [.accept ⟨0x1503#32, 0#256⟩] }

/-- The request is accepted where the queue can hold two; where it can hold one, R165 lets no edge do both. -/
theorem witness_AcceptAndRespondCommute :
    EngineInv exchangingState ∧ exchangingState.rspTaken = true ∧
    (1 < Config.maxInflight → exchangingState.accepted = some ⟨0x1403#32, 9#256⟩) ∧
    ({ exchangingState with inputs := [Pins.take] } : State).accepted = none :=
  ⟨⟨rfl, by decide, by decide, by decide⟩, by decide, fun h => by
    simp [State.accepted, State.reqReady, State.phaseNow, State.pins, exchangingState, requestState, h], by decide⟩

theorem witness_InstancesAreIndependent : ∃ s, Platform.reset.engines[0]? = some s := ⟨State.reset, by
  simp [Platform.reset, Config.nInstances]⟩

/-- The ends of each number range of rule R73. -/
theorem witness_LinesAssembleToTheirFields :
    (-2 ^ 255 : Int) ≤ -2 ^ 255 ∧ (2 ^ 255 - 1 : Int) < 2 ^ 255 ∧ 2 ^ 256 - 1 < 2 ^ 256 ∧ 255 ≤ 255 ∧
    2 ^ 32 - 1 < 2 ^ 32 := by decide

end Sys2Proof.Tests
end

/-! ### The command word's fields as numbers (30_encoding.md rule R60) -/

namespace Sys2Proof.Proofs.Fields

open Sys2Proof.Machine

theorem opField_toNat (cmd : BitVec 32) : (opField cmd).toNat = cmd.toNat % 256 := by
  simp [opField]

theorem idxField_toNat (cmd : BitVec 32) : (idxField cmd).toNat = cmd.toNat / 256 % 256 := by
  simp [idxField, Nat.shiftRight_eq_div_pow]

theorem rsvField_toNat (cmd : BitVec 32) : (rsvField cmd).toNat = cmd.toNat / 65536 := by
  have := cmd.isLt
  simp only [rsvField, BitVec.extractLsb'_toNat, Nat.shiftRight_eq_div_pow]
  omega

/-- The response the exact-integer rules give an operation. -/
def refResponse : Instr → Response
  | .t2p opd => Reference.t2p opd.toInt
  | .p2t opd => Reference.p2t opd.toNat
  | .rdc idx _ => Reference.rdc idx.toNat

/-- `Reference.exec` read through the model's own fields. -/
theorem reference_exec_eq (r : Request) : Reference.exec r =
    if rsvField r.cmd ≠ 0#16 then Reference.illegal
    else if opField r.cmd = 0x01#8 then
      if idxField r.cmd ≠ 0#8 then Reference.illegal else refResponse (.t2p r.opd)
    else if opField r.cmd = 0x02#8 then
      if idxField r.cmd ≠ 0#8 then Reference.illegal else refResponse (.p2t r.opd)
    else if opField r.cmd = 0x03#8 then
      if 26 < (idxField r.cmd).toNat then Reference.illegal else refResponse (.rdc (idxField r.cmd) r.opd)
    else Reference.illegal := by
  simp only [← BitVec.toNat_inj, ne_eq, refResponse, opField_toNat, idxField_toNat, rsvField_toNat]
  rfl

/-- Everything `decode` can accept, with the fields that make it do so (rules R61, R68). -/
theorem decode_ok_cases {r : Request} {i : Instr} (h : decode r = .ok i) :
    rsvField r.cmd = 0#16 ∧
      ((opField r.cmd = 0x01#8 ∧ idxField r.cmd = 0#8 ∧ i = .t2p r.opd) ∨
       (opField r.cmd = 0x02#8 ∧ idxField r.cmd = 0#8 ∧ i = .p2t r.opd) ∨
       (opField r.cmd = 0x03#8 ∧ (idxField r.cmd).toNat ≤ 26 ∧ i = .rdc (idxField r.cmd) r.opd)) := by
  unfold decode romIndexOk at h
  split_ifs at h with hrsv hop hidx hop hidx hop hidx <;> cases h <;> simp_all

/-- A request that decodes gets the exact-integer response of its operation (rule R69). -/
theorem reference_exec_of_ok {r : Request} {i : Instr} (h : decode r = .ok i) :
    Reference.exec r = refResponse i := by
  rw [reference_exec_eq]
  obtain ⟨hrsv, ⟨hop, hidx, rfl⟩ | ⟨hop, hidx, rfl⟩ | ⟨hop, hidx, rfl⟩⟩ := decode_ok_cases h
  · simp [hrsv, hop, hidx]
  · simp [hrsv, hop, hidx]
  · simp [hrsv, hop, Nat.not_lt.mpr hidx]

/-- A request that names no operation is illegal by the exact-integer rules as well (rules R68, R69). -/
theorem reference_exec_of_error {r : Request} {e : DecodeError} (h : decode r = .error e) :
    Reference.exec r = Reference.illegal := by
  rw [reference_exec_eq]
  unfold decode romIndexOk at h
  split_ifs at h with hrsv hop hidx hop hidx hop hidx <;> simp_all

/-- Decode hands RDC no index without a ROM entry (rule R68(d)). -/
theorem wellFormed_of_decode {r : Request} {i : Instr} (h : decode r = .ok i) : i.wellFormed = true := by
  obtain ⟨-, ⟨-, -, rfl⟩ | ⟨-, -, rfl⟩ | ⟨-, hidx, rfl⟩⟩ := decode_ok_cases h
  · rfl
  · rfl
  · exact decide_eq_true hidx

end Sys2Proof.Proofs.Fields

/-! ### T2P computes the exact-integer price (40_tick_to_price.md rules R80 to R88) -/

namespace Sys2Proof.Proofs.TickToPrice

open Sys2Proof.Machine Sys2Proof.Laws

/-- The hex and the decimal column of rule R41 agree. -/
theorem romK_toNat (i : Fin 20) : (romK Config.romImage i).toNat = Reference.k i.val := by
  revert i; decide

theorem k_lt (i : Fin 20) : Reference.k i.val < 2 ^ 128 := by
  revert i; decide

theorem romMaxTick_romImage : romMaxTick Config.romImage = Reference.maxTick := by decide

/-! #### The chain -/

/-- The machine's accumulator `w` stands for the exact one `n`, small enough that no product of the chain wraps (R88). -/
def RatioRefines (w : Word) (n : Nat) : Prop := w.toNat = n ∧ n ≤ 2 ^ 128

theorem ratioRefines_initial (a : Nat) :
    RatioRefines (initialRatio Config.romImage a) (if a.testBit 0 then Reference.k 0 else 2 ^ 128) := by
  unfold RatioRefines initialRatio
  split
  · exact ⟨romK_toNat 0, (k_lt 0).le⟩
  · exact ⟨rfl, le_rfl⟩

theorem RatioRefines.chainStep {w : Word} {n : Nat} (h : RatioRefines w n) (a : Nat) (i : Fin 20) :
    RatioRefines (chainStep Config.romImage a w i) (Reference.chainStep a n i.val) := by
  obtain ⟨rfl, hn⟩ := h
  cases hb : a.testBit i.val with
  | false => simpa [chainStep_clear _ _ hb, Reference.chainStep, hb, RatioRefines] using hn
  | true =>
    have hprod : w.toNat * Reference.k i.val ≤ 2 ^ 128 * 2 ^ 128 - 2 ^ 128 :=
      (Nat.mul_le_mul hn (Nat.le_sub_one_of_lt (k_lt i))).trans (by norm_num)
    have hfit : w.toNat * (romK Config.romImage i).toNat < 2 ^ 256 := by rw [romK_toNat]; omega
    rw [chainStep_set _ _ hb]
    simp only [Reference.chainStep, hb, if_true, RatioRefines, ushiftRight_toNat, mulWrap_toNat_of_lt hfit, romK_toNat,
      true_and]
    omega

theorem RatioRefines.foldl {w : Word} {n : Nat} (h : RatioRefines w n) (a : Nat) (order : List (Fin 20)) :
    RatioRefines (order.foldl (Machine.chainStep Config.romImage a) w)
      ((order.map Fin.val).foldl (Reference.chainStep a) n) := by
  induction order generalizing w n with
  | nil => exact h
  | cons i order ih => exact ih (h.chainStep a i)

/-- The whole chain, bit positions 1 to 19 on both sides (rules R83, R84). -/
theorem ratioRefines_chainRatio (a : Nat) : RatioRefines (chainRatio Config.romImage a) (Reference.ratio a) := by
  have horder : List.range' 1 19 = (chainOrder.take 19).map Fin.val := by decide
  unfold Reference.ratio
  rw [horder]
  exact (ratioRefines_initial a).foldl a _

theorem chainRatio_toNat (a : Nat) : (chainRatio Config.romImage a).toNat = Reference.ratio a :=
  (ratioRefines_chainRatio a).1

/-! #### Reciprocal and rounding -/

theorem reciprocal_toNat (t : Int) (ratio : Word) :
    (reciprocal t ratio).toNat = if 0 < t then (2 ^ 256 - 1) / ratio.toNat else ratio.toNat := by
  unfold reciprocal
  split <;> rfl

/-- The masked low half is the remainder modulo `2^32`. -/
theorem and_roundMask_toNat (ratio : Word) : (ratio &&& Config.roundMask).toNat = ratio.toNat % 2 ^ 32 := by
  rw [BitVec.toNat_and, ← Nat.and_two_pow_sub_one_eq_mod]
  rfl

/-- Rule R86: rounding up, with no carry out of 256 bits. -/
theorem roundToQ96_toNat (ratio : Word) : (roundToQ96 ratio).toNat = (ratio.toNat + (2 ^ 32 - 1)) / 2 ^ 32 := by
  have hlt := ratio.isLt
  have hzero : ratio &&& Config.roundMask = 0#256 ↔ ratio.toNat % 2 ^ 32 = 0 := by
    rw [← BitVec.toNat_inj, and_roundMask_toNat]; rfl
  simp only [roundToQ96, ne_eq, hzero, BitVec.toNat_add, ushiftRight_toNat]
  split <;> simp only [BitVec.toNat_ofNat] <;> omega

/-- The machine's price is the exact-integer one (rules R82 to R86). -/
theorem sqrtPriceOf_toNat (t : Int) : (sqrtPriceOf Config.romImage t).toNat = Reference.price t := by
  simp only [sqrtPriceOf, roundToQ96_toNat, reciprocal_toNat, chainRatio_toNat, Reference.price]

/-! #### The operation -/

theorem tickInRange_iff (t : Int) : tickInRange Config.romImage t = true ↔ (t.natAbs : Int) ≤ Reference.maxTick := by
  rw [tickInRange, decide_eq_true_iff, romMaxTick_romImage]

theorem t2pOp_of_inRange {t : Int} (h : (t.natAbs : Int) ≤ Reference.maxTick) :
    t2pOp Config.romImage t = ⟨.ok, BitVec.ofNat 256 (Reference.price t)⟩ := by
  rw [t2pOp, if_pos ((tickInRange_iff t).mpr h), okResponse, ← sqrtPriceOf_toNat, BitVec.ofNat_toNat,
    BitVec.setWidth_eq]

theorem t2pOp_of_outOfRange {t : Int} (h : Reference.maxTick < (t.natAbs : Int)) :
    t2pOp Config.romImage t = ⟨.tickOutOfRange, 0#256⟩ := by
  rw [t2pOp, if_neg (fun hin => not_le.mpr h ((tickInRange_iff t).mp hin)), errorResponse]

/-- `T2P_op` is the exact-integer one for every operand (rules R81, R87). -/
theorem t2pOp_eq_reference (t : Int) : t2pOp Config.romImage t = Reference.t2p t := by
  unfold Reference.t2p
  split
  case isTrue h => exact t2pOp_of_outOfRange h
  case isFalse h => exact t2pOp_of_inRange (not_lt.mp h)

end Sys2Proof.Proofs.TickToPrice

/-! ### The bit-length search and the normalisation (41_price_to_tick.md rules R102 to R104) -/

namespace Sys2Proof.Proofs.BitLength

open Sys2Proof.Machine Sys2Proof.Laws

/-- Before the step that shifts by `2 ^ k`: the bits of `x` still unsearched are those of `rm.1`, at most `2 ^ (k + 1)` of
them, and `rm.2` holds the part of the bit length already found, a multiple of `2 ^ (k + 1)`. -/
structure SearchInv (x k : Nat) (rm : Word × Word) : Prop where
  pos : rm.1.toNat ≠ 0
  unsearched : rm.1.toNat < 2 ^ 2 ^ (k + 1)
  multiple : 2 ^ (k + 1) ∣ rm.2.toNat
  total : rm.2.toNat + Nat.log2 rm.1.toNat = Nat.log2 x

/-- The amount and threshold of the step that shifts by `2 ^ k` (rule R103). -/
def IsSearchStep (k : Nat) (c : Word × Word) : Prop := c.1.toNat = 2 ^ k ∧ c.2.toNat + 1 = 2 ^ 2 ^ k

theorem log2_div_two_pow {n j : Nat} (h : 2 ^ j ≤ n) : Nat.log2 (n / 2 ^ j) + j = Nat.log2 n := by
  rw [Nat.log2_eq_log_two, Nat.log2_eq_log_two, Nat.log_div_base_pow,
    Nat.sub_add_cancel (Nat.le_log_of_pow_le (by decide) h)]

/-- A bit below all set bits is added by OR. -/
theorem or_two_pow_of_dvd {m k : Nat} (h : 2 ^ (k + 1) ∣ m) : m ||| 2 ^ k = m + 2 ^ k := by
  obtain ⟨a, rfl⟩ := h
  exact (Nat.two_pow_add_eq_or_of_lt (Nat.pow_lt_pow_right (by decide) k.lt_succ_self) a).symm

theorem searchStep_toNat {rm c : Word × Word} {k : Nat} (hc : IsSearchStep k c) :
    (searchStep rm c).1.toNat = (if 2 ^ 2 ^ k ≤ rm.1.toNat then rm.1.toNat / 2 ^ 2 ^ k else rm.1.toNat) ∧
    (searchStep rm c).2.toNat = (if 2 ^ 2 ^ k ≤ rm.1.toNat then rm.2.toNat ||| 2 ^ k else rm.2.toNat) := by
  obtain ⟨hamount, hthreshold⟩ := hc
  have hgt : rm.1 > c.2 ↔ 2 ^ 2 ^ k ≤ rm.1.toNat := by
    rw [gt_iff_lt, BitVec.lt_def, ← hthreshold, Nat.succ_le_iff]
  simp only [searchStep, hgt]
  split <;> simp [hamount, Nat.shiftRight_eq_div_pow]

/-- A step halves the unsearched width. -/
theorem SearchInv.step {x k : Nat} {rm c : Word × Word} (h : SearchInv x (k + 1) rm) (hc : IsSearchStep (k + 1) c) :
    SearchInv x k (searchStep rm c) := by
  obtain ⟨hpos, hlt, hdvd, htotal⟩ := h
  obtain ⟨h1, h2⟩ := searchStep_toNat (rm := rm) hc
  have hdvd' : 2 ^ (k + 1) ∣ rm.2.toNat := (pow_dvd_pow 2 (Nat.le_succ _)).trans hdvd
  by_cases hbig : 2 ^ 2 ^ (k + 1) ≤ rm.1.toNat
  · rw [if_pos hbig] at h1 h2
    rw [or_two_pow_of_dvd hdvd] at h2
    have hlog := log2_div_two_pow hbig
    refine ⟨?_, ?_, ?_, ?_⟩
    · rw [h1]; exact (Nat.div_pos hbig (by positivity)).ne'
    · rw [h1]
      refine Nat.div_lt_of_lt_mul (hlt.trans_eq ?_)
      rw [← pow_add, ← two_mul, ← pow_succ']
    · rw [h2]; exact dvd_add hdvd' dvd_rfl
    · rw [h1, h2]; omega
  · rw [if_neg hbig] at h1 h2
    refine ⟨?_, ?_, ?_, ?_⟩
    · rwa [h1]
    · rw [h1]; exact not_le.mp hbig
    · rwa [h2]
    · rwa [h1, h2]

theorem searchInv_start {ratio : Word} (h : ratio ≠ 0#256) : SearchInv ratio.toNat 7 (ratio, 0#256) where
  pos := fun h0 => h (BitVec.eq_of_toNat_eq h0)
  unsearched := ratio.isLt
  multiple := dvd_zero _
  total := Nat.zero_add _

/-- After the seven shifting steps two bits are unsearched. -/
theorem searchInv_searchSteps {ratio : Word} (h : ratio ≠ 0#256) :
    SearchInv ratio.toNat 0 (Config.searchSteps.foldl searchStep (ratio, 0#256)) := by
  simp only [Config.searchSteps, List.foldl_cons, List.foldl_nil]
  refine SearchInv.step (.step (.step (.step (.step (.step (.step (searchInv_start h) ?_) ?_) ?_) ?_) ?_) ?_) ?_
  all_goals exact ⟨by decide, by decide⟩

/-- The eight steps find the index of the most significant set bit (rule R103). -/
theorem bitLengthSearch_toNat {ratio : Word} (h : ratio ≠ 0#256) :
    (bitLengthSearch ratio).toNat = Nat.log2 ratio.toNat := by
  obtain ⟨hpos, hlt, hdvd, htotal⟩ := searchInv_searchSteps h
  simp only [bitLengthSearch, gt_iff_lt, BitVec.lt_def]
  generalize Config.searchSteps.foldl searchStep (ratio, 0#256) = rm at hpos hlt hdvd htotal ⊢
  rw [← htotal]
  split
  case isTrue hbig =>
    have hlog : Nat.log2 rm.1.toNat = 1 := (Nat.log2_eq_iff hpos).mpr ⟨hbig, hlt⟩
    rw [hlog]
    exact or_two_pow_of_dvd hdvd
  case isFalse hsmall =>
    have hlog : Nat.log2 rm.1.toNat = 0 :=
      (Nat.log2_eq_iff hpos).mpr ⟨Nat.one_le_iff_ne_zero.mpr hpos, (not_lt.mp hsmall).trans_lt (by decide)⟩
    simp [hlog]

/-! #### Normalisation -/

/-- The scaling shift loses nothing at the top of the word (rule R104). -/
theorem normalise_toNat {x msb : Word} (hx : x ≠ 0#256) (hmsb : msb.toNat = Nat.log2 x.toNat) :
    (normalise x msb).toNat = Reference.normalised x.toNat := by
  have hx0 : x.toNat ≠ 0 := fun h0 => hx (BitVec.eq_of_toNat_eq h0)
  obtain ⟨-, hlt⟩ := (Nat.log2_eq_iff hx0).mp hmsb.symm
  have hmsb256 : msb.toNat < 256 := by rw [hmsb, Nat.log2_lt hx0]; exact x.isLt
  simp only [normalise, Reference.normalised, ge_iff_le, BitVec.le_def, ← hmsb, BitVec.toNat_ofNat]
  split
  case isTrue hbig =>
    have hshift : (msb - 127#256).toNat = msb.toNat - 127 :=
      BitVec.toNat_sub_of_le (BitVec.le_def.mpr (Nat.le_of_succ_le hbig))
    rw [BitVec.ushiftRight_eq', hshift, ushiftRight_toNat]
  case isFalse hsmall =>
    have hshift : (127#256 - msb).toNat = 127 - msb.toNat :=
      BitVec.toNat_sub_of_le (BitVec.le_def.mpr (Nat.le_of_lt_succ (not_le.mp hsmall)))
    have hfit : x.toNat * 2 ^ (127 - msb.toNat) < 2 ^ 256 :=
      calc x.toNat * 2 ^ (127 - msb.toNat)
          < 2 ^ (msb.toNat + 1) * 2 ^ (127 - msb.toNat) := Nat.mul_lt_mul_of_pos_right hlt (by positivity)
        _ = 2 ^ (msb.toNat + 1 + (127 - msb.toNat)) := (pow_add ..).symm
        _ ≤ 2 ^ 256 := Nat.pow_le_pow_right (by decide) (by omega)
    rw [BitVec.shiftLeft_eq', hshift, BitVec.toNat_shiftLeft, Nat.shiftLeft_eq, Nat.mod_eq_of_lt hfit]

/-- The working value lies in `[2^127, 2^128)` (rule R104). -/
theorem normalised_bounds {x : Nat} (hx : x ≠ 0) :
    2 ^ 127 ≤ Reference.normalised x ∧ Reference.normalised x < 2 ^ 128 := by
  obtain ⟨hle, hlt⟩ := (Nat.log2_eq_iff hx).mp rfl
  unfold Reference.normalised
  generalize Nat.log2 x = m at hle hlt
  split
  case isTrue hbig =>
    obtain ⟨d, rfl⟩ : ∃ d, m = 127 + d := ⟨m - 127, by omega⟩
    rw [Nat.add_sub_cancel_left, Nat.le_div_iff_mul_le (by positivity), ← pow_add]
    exact ⟨hle, Nat.div_lt_of_lt_mul (by rwa [← pow_add, show d + 128 = 127 + d + 1 by omega])⟩
  case isFalse hsmall =>
    obtain ⟨d, hd⟩ : ∃ d, 127 = m + d := ⟨127 - m, by omega⟩
    have hd' : 127 - m = d := by omega
    rw [hd', show 128 = m + 1 + d by omega, show 127 = m + d from hd, pow_add, pow_add _ (m + 1)]
    exact ⟨Nat.mul_le_mul_right _ hle, Nat.mul_lt_mul_of_pos_right hlt (by positivity)⟩

end Sys2Proof.Proofs.BitLength

/-! ### The fraction bits and the logarithm (41_price_to_tick.md rules R105 to R108) -/

namespace Sys2Proof.Proofs.Logarithm

open Sys2Proof.Machine Sys2Proof.Laws Sys2Proof.Proofs.BitLength

/-! #### One squaring -/

/-- A set bit below all set bits of a word is added by OR. -/
theorem or_one_shiftLeft_toNat {l : Word} {bit : Nat} (hl : 2 ^ (bit + 1) ∣ l.toNat) (hbit : bit < 256) :
    (l ||| 1#256 <<< bit).toNat = l.toNat + 2 ^ bit := by
  rw [BitVec.toNat_or, ← BitVec.twoPow_eq, BitVec.toNat_twoPow_of_lt hbit, or_two_pow_of_dvd hl]

theorem or_one_shiftLeft {l : Word} {bit : Nat} (hl : 2 ^ (bit + 1) ∣ l.toNat) (hbit : bit < 256) :
    l ||| 1#256 <<< bit = l + BitVec.ofNat 256 (2 ^ bit) := by
  have hor := or_one_shiftLeft_toNat hl hbit
  refine BitVec.eq_of_toNat_eq ?_
  rw [BitVec.toNat_add, BitVec.toNat_ofNat, Nat.add_mod_mod, ← hor, Nat.mod_eq_of_lt (BitVec.isLt _)]

/-- A squared working value has at most one bit above its 128. -/
theorem square_div_lt {n : Nat} (h : n < 2 ^ 128) : n * n / 2 ^ 127 < 2 ^ 129 :=
  Nat.div_lt_of_lt_mul ((Nat.mul_lt_mul'' h h).trans_eq (by norm_num))

/-- One fraction step, by the bit it extracts (rule R106). -/
theorem fractionStep_eq {rl : Word × Word} (bit : Nat) (h : rl.1.toNat < 2 ^ 128) :
    fractionStep rl bit =
      if 2 ^ 128 ≤ rl.1.toNat * rl.1.toNat / 2 ^ 127 then (squareQ127 rl.1 >>> 1, rl.2 ||| 1#256 <<< bit)
      else (squareQ127 rl.1, rl.2) := by
  have hsq := squareQ127_toNat h
  have hsq_lt := square_div_lt h
  have hbit := ushiftRight_toNat (squareQ127 rl.1) 128
  rw [hsq] at hbit
  unfold fractionStep
  split
  case isTrue hbig =>
    have hone : squareQ127 rl.1 >>> 128 = 1#256 := BitVec.eq_of_toNat_eq (hbit.trans (show _ = 1 by omega))
    simp [hone]
  case isFalse hsmall =>
    have hzero : squareQ127 rl.1 >>> 128 = 0#256 := BitVec.eq_of_toNat_eq (hbit.trans (show _ = 0 by omega))
    simp [hzero]

/-- The datapath's `(r, log_2)` stands for the exact `(r, fraction)`, all bits from `bit` on being done: the fraction is
added to the integer part `init`, and the bits below `bit` are still zero. -/
structure FractionRefines (init : Word) (bit : Nat) (rl : Word × Word) (rf : Nat × Nat) : Prop where
  r_eq : rl.1.toNat = rf.1
  r_lt : rf.1 < 2 ^ 128
  log_eq : rl.2 = init + BitVec.ofNat 256 rf.2
  low_bits_zero : 2 ^ bit ∣ rl.2.toNat
  fraction_le : rf.2 + 2 ^ bit ≤ 2 ^ 64

/-- Each squaring keeps both sides together (rules R106, R112). -/
theorem FractionRefines.step {init : Word} {bit : Nat} {rl : Word × Word} {rf : Nat × Nat}
    (h : FractionRefines init (bit + 1) rl rf) :
    FractionRefines init bit (fractionStep rl bit) (Reference.squareStep rf bit) := by
  obtain ⟨hr, hlt, hlog, hzero, hle⟩ := h
  have hsq := squareQ127_toNat (hr ▸ hlt)
  have hzero' : 2 ^ bit ∣ rl.2.toNat := (pow_dvd_pow 2 (Nat.le_succ bit)).trans hzero
  have hle' : rf.2 + 2 ^ bit + 2 ^ bit ≤ 2 ^ 64 := by rw [pow_succ] at hle; omega
  have hsq_lt := square_div_lt hlt
  rw [fractionStep_eq bit (hr ▸ hlt), hr]
  rw [hr] at hsq
  unfold Reference.squareStep
  by_cases hbig : 2 ^ 128 ≤ rf.1 * rf.1 / 2 ^ 127
  · have hbit : bit < 256 := (Nat.pow_lt_pow_iff_right (a := 2) (by decide)).mp (by omega)
    have hor := or_one_shiftLeft hzero hbit
    simp only [if_pos hbig]
    exact {
      r_eq := by rw [ushiftRight_toNat, hsq, pow_one]
      r_lt := by omega
      log_eq := by rw [hor, hlog, BitVec.add_assoc, ← BitVec.ofNat_add]
      low_bits_zero := by
        rw [or_one_shiftLeft_toNat hzero hbit]
        exact dvd_add hzero' dvd_rfl
      fraction_le := hle' }
  · simp only [if_neg hbig]
    exact { r_eq := hsq, r_lt := not_le.mp hbig, log_eq := hlog, low_bits_zero := hzero', fraction_le := by omega }

/-- The `n` squarings for the bits from `bit + n - 1` down to `bit`. -/
theorem FractionRefines.foldl {init : Word} {n bit : Nat} {rl : Word × Word} {rf : Nat × Nat}
    (h : FractionRefines init (bit + n) rl rf) :
    FractionRefines init bit ((List.range' bit n).reverse.foldl fractionStep rl)
      ((List.range' bit n).reverse.foldl Reference.squareStep rf) := by
  induction n generalizing bit with
  | zero => exact h
  | succ n ih =>
    simp only [List.range'_succ, List.reverse_cons, List.foldl_append]
    exact (ih (by rwa [Nat.add_right_comm])).step

/-! #### The accumulator -/

theorem dvd_log2Init (msb : Word) : 2 ^ 64 ∣ (log2Init msb).toNat := by
  rw [log2Init, mulWrap_toNat]
  exact (Nat.dvd_mod_iff (by decide)).mpr (Dvd.intro_left _ rfl)

/-- Rule R105. -/
theorem log2Init_eq_ofInt (msb : Word) : log2Init msb = BitVec.ofInt 256 (((msb.toNat : Int) - 128) * 2 ^ 64) := by
  rw [BitVec.ofInt_mul, sub_eq_add_neg, BitVec.ofInt_add, BitVec.ofInt_natCast, BitVec.ofNat_toNat, BitVec.setWidth_eq,
    log2Init, BitVec.sub_eq_add_neg]
  rfl

/-- The final squaring is one more fraction step, whose shifted `r` nobody reads (rule R107). -/
theorem finalSquaring_eq_fractionStep (rl : Word × Word) : finalSquaring rl = (fractionStep rl 50).2 := rfl

theorem finalSquaring_fractionAfter (r l : Word) :
    finalSquaring (fractionAfter r l 13) = ((List.range' 50 14).reverse.foldl fractionStep (r, l)).2 := by
  have hbits : (List.range' 50 14).reverse = fractionBits.take 13 ++ [50] := by decide
  rw [hbits, List.foldl_append, finalSquaring_eq_fractionStep, fractionAfter]
  rfl

/-- All fourteen bits of the fraction (rules R106, R107). -/
theorem fractionRefines_final {r : Word} {x : Nat} (msb : Word) (hr : r.toNat = Reference.normalised x) (hx : x ≠ 0) :
    FractionRefines (log2Init msb) 50 ((List.range' 50 14).reverse.foldl fractionStep (r, log2Init msb))
      ((List.range' 50 14).reverse.foldl Reference.squareStep (Reference.normalised x, 0)) := by
  refine FractionRefines.foldl ?_
  exact {
    r_eq := hr
    r_lt := (normalised_bounds hx).2
    log_eq := by simp
    low_bits_zero := dvd_log2Init msb
    fraction_le := by norm_num }

theorem finalSquaring_eq_ofInt {r : Word} {x : Nat} (msb : Word) (hr : r.toNat = Reference.normalised x) (hx : x ≠ 0) :
    finalSquaring (fractionAfter r (log2Init msb) 13) =
      BitVec.ofInt 256 (((msb.toNat : Int) - 128) * 2 ^ 64 + (Reference.fraction x : Int)) := by
  rw [finalSquaring_fractionAfter, (fractionRefines_final msb hr hx).log_eq, log2Init_eq_ofInt, BitVec.ofInt_add,
    BitVec.ofInt_natCast, Reference.fraction]

end Sys2Proof.Proofs.Logarithm

/-! ### P2T computes the exact-integer tick (41_price_to_tick.md rules R100 to R113) -/

namespace Sys2Proof.Proofs.PriceToTick

open Sys2Proof.Machine Sys2Proof.Laws Sys2Proof.Proofs.TickToPrice Sys2Proof.Proofs.BitLength
  Sys2Proof.Proofs.Logarithm

/-! #### The constants -/

theorem romMinSqrtRatio_toNat : (romMinSqrtRatio Config.romImage).toNat = Reference.minSqrtRatio := rfl

theorem romMaxSqrtRatio_toNat : (romMaxSqrtRatio Config.romImage).toNat = Reference.maxSqrtRatio := rfl

theorem romSqrt10001_eq : romSqrt10001 Config.romImage = BitVec.ofInt 256 Reference.sqrt10001 := by decide

theorem romTickLowErr_eq : romTickLowErr Config.romImage = BitVec.ofInt 256 Reference.tickLowErr := by decide

theorem romTickHighErr_eq : romTickHighErr Config.romImage = BitVec.ofInt 256 Reference.tickHighErr := by decide

/-- Rule R101. -/
theorem priceInRange_iff (p : Word) : priceInRange Config.romImage p = true ↔
    Reference.minSqrtRatio ≤ p.toNat ∧ p.toNat < Reference.maxSqrtRatio := by
  simp only [priceInRange, Bool.and_eq_true, decide_eq_true_iff, BitVec.le_def, BitVec.lt_def, romMinSqrtRatio_toNat,
    romMaxSqrtRatio_toNat]

/-! #### The shift of rule R109 -/

/-- An exact quotient that fits 32 bits passes the shift and the truncation of rule R109. -/
theorem low32_asr_ofInt {x : Int} (hmin : -2 ^ 159 ≤ x) (hmax : x < 2 ^ 159) :
    (low32 (asr (BitVec.ofInt 256 x) 128)).toInt = x / 2 ^ 128 := by
  have hshift : (asr (BitVec.ofInt 256 x) 128).toInt = x / 2 ^ 128 := by
    rw [asr, BitVec.toInt_sshiftRight, BitVec.toInt_ofInt_eq_self (by decide) (by omega) (by omega),
      Int.shiftRight_eq_div_pow]
    rfl
  rw [low32, BitVec.toInt_setWidth, ← Int.bmod_bmod_of_dvd (m := 2 ^ 256) (by decide), ← BitVec.toInt_eq_toNat_bmod,
    hshift]
  exact Int.bmod_eq_of_le (by omega) (by omega)

/-! #### The logarithm of a price in range -/

section InRange

variable {p : Word} (hp : priceInRange Config.romImage p = true)

include hp

theorem price_bounds : 2 ^ 32 ≤ p.toNat ∧ p.toNat < 2 ^ 160 := by
  obtain ⟨hmin, hmax⟩ := (priceInRange_iff p).mp hp
  simp only [Reference.minSqrtRatio, Reference.maxSqrtRatio] at hmin hmax
  omega

/-- Rule R102: no bit is lost. -/
theorem widen_toNat : (widen p).toNat = p.toNat * 2 ^ 32 := by
  obtain ⟨-, hlt⟩ := price_bounds hp
  rw [widen, BitVec.toNat_shiftLeft, Nat.shiftLeft_eq, Nat.mod_eq_of_lt (by omega)]

theorem widened_price_ne_zero : p.toNat * 2 ^ 32 ≠ 0 := by
  obtain ⟨hle, -⟩ := price_bounds hp
  omega

theorem widen_ne_zero : widen p ≠ 0#256 := fun h =>
  widened_price_ne_zero hp (by rw [← widen_toNat hp, h]; rfl)

/-- Rule R103: the bit length of a price in range. -/
theorem log2_widened_bounds : 64 ≤ Nat.log2 (p.toNat * 2 ^ 32) ∧ Nat.log2 (p.toNat * 2 ^ 32) < 192 := by
  obtain ⟨hle, hlt⟩ := price_bounds hp
  have hne := widened_price_ne_zero hp
  exact ⟨(Nat.le_log2 hne).mpr (by omega), (Nat.log2_lt hne).mpr (by omega)⟩

theorem msb_toNat : (bitLengthSearch (widen p)).toNat = Nat.log2 (p.toNat * 2 ^ 32) := by
  rw [bitLengthSearch_toNat (widen_ne_zero hp), widen_toNat hp]

theorem normalise_widen_toNat :
    (normalise (widen p) (bitLengthSearch (widen p))).toNat = Reference.normalised (p.toNat * 2 ^ 32) := by
  rw [normalise_toNat (widen_ne_zero hp) (bitLengthSearch_toNat (widen_ne_zero hp)), widen_toNat hp]

/-- The datapath's logarithm is the exact one (rules R105 to R107). -/
theorem path_log2 : (p2tPath Config.romImage p).log2 = BitVec.ofInt 256 (Reference.log2 p.toNat) := by
  have h := finalSquaring_eq_ofInt (bitLengthSearch (widen p)) (normalise_widen_toNat hp) (widened_price_ne_zero hp)
  rw [msb_toNat hp] at h
  exact h

/-- The change of base (rule R108). -/
theorem path_logSqrt10001 : (p2tPath Config.romImage p).logSqrt10001 =
    BitVec.ofInt 256 (Reference.log2 p.toNat * Reference.sqrt10001) := by
  rw [BitVec.ofInt_mul, ← path_log2 hp, ← romSqrt10001_eq]
  rfl

/-- Rule R112, with the 50 low bits that no step fills: they keep the logarithm that much below 64. -/
theorem log2_bounds :
    -64 * 2 ^ 64 ≤ Reference.log2 p.toNat ∧ Reference.log2 p.toNat ≤ 64 * 2 ^ 64 - 2 ^ 50 := by
  obtain ⟨hmin, hmax⟩ := log2_widened_bounds hp
  have hfraction := (fractionRefines_final 0#256 (normalise_widen_toNat hp) (widened_price_ne_zero hp)).fraction_le
  rw [← Reference.fraction] at hfraction
  unfold Reference.log2
  omega

/-! #### The candidates -/

/-- Rule R109. -/
theorem path_tickLow_toInt : (p2tPath Config.romImage p).tickLow.toInt = Reference.tickLow p.toNat := by
  obtain ⟨hmin, hmax⟩ := log2_bounds hp
  have hlow : (p2tPath Config.romImage p).tickLow =
      low32 (asr (BitVec.ofInt 256 (Reference.log2 p.toNat * Reference.sqrt10001 - Reference.tickLowErr)) 128) := by
    rw [sub_eq_add_neg, BitVec.ofInt_add, BitVec.ofInt_neg, ← BitVec.sub_eq_add_neg, ← path_logSqrt10001 hp,
      ← romTickLowErr_eq]
    rfl
  rw [hlow, Reference.tickLow]
  refine low32_asr_ofInt ?_ ?_ <;> simp only [Reference.sqrt10001, Reference.tickLowErr] <;> omega

/-- Rule R109. -/
theorem path_tickHigh_toInt : (p2tPath Config.romImage p).tickHigh.toInt = Reference.tickHigh p.toNat := by
  obtain ⟨hmin, hmax⟩ := log2_bounds hp
  have hhigh : (p2tPath Config.romImage p).tickHigh =
      low32 (asr (BitVec.ofInt 256 (Reference.log2 p.toNat * Reference.sqrt10001 + Reference.tickHighErr)) 128) := by
    rw [BitVec.ofInt_add, ← path_logSqrt10001 hp, ← romTickHighErr_eq]
    rfl
  rw [hhigh, Reference.tickHigh]
  refine low32_asr_ofInt ?_ ?_ <;> simp only [Reference.sqrt10001, Reference.tickHighErr] <;> omega

/-- Rule R113: the inner T2P never takes its error path. -/
theorem tickHigh_inRange : ((Reference.tickHigh p.toNat).natAbs : Int) ≤ Reference.maxTick := by
  obtain ⟨hmin, hmax⟩ := log2_bounds hp
  simp only [Reference.tickHigh, Reference.sqrt10001, Reference.tickHighErr, Reference.maxTick]
  omega

/-! #### The choice -/

theorem tickLow_eq_tickHigh_iff : (p2tPath Config.romImage p).tickLow = (p2tPath Config.romImage p).tickHigh ↔
    Reference.tickLow p.toNat = Reference.tickHigh p.toNat := by
  rw [← BitVec.toInt_inj, path_tickLow_toInt hp, path_tickHigh_toInt hp]

theorem sext256_tickLow :
    sext256 (p2tPath Config.romImage p).tickLow = BitVec.ofInt 256 (Reference.tickLow p.toNat) := by
  rw [← path_tickLow_toInt hp]; rfl

theorem sext256_tickHigh :
    sext256 (p2tPath Config.romImage p).tickHigh = BitVec.ofInt 256 (Reference.tickHigh p.toNat) := by
  rw [← path_tickHigh_toInt hp]; rfl

/-- The price of `tickHigh`, which the choice compares with the input (rule R110). -/
theorem t2pOp_tickHigh : t2pOp Config.romImage (p2tPath Config.romImage p).tickHigh.toInt =
    ⟨.ok, sqrtPriceOf Config.romImage (Reference.tickHigh p.toNat)⟩ := by
  rw [path_tickHigh_toInt hp, t2pOp, if_pos ((tickInRange_iff _).mpr (tickHigh_inRange hp)), okResponse]

/-- The chosen candidate is the exact-integer tick (rules R110, R111). -/
theorem p2tOp_of_inRange : p2tOp Config.romImage p = ⟨.ok, BitVec.ofInt 256 (Reference.tick p.toNat)⟩ := by
  rw [p2tOp, if_pos hp, resolve, t2pOp_tickHigh hp]
  simp only [tickLow_eq_tickHigh_iff hp, sext256_tickLow hp, sext256_tickHigh hp, okResponse, BitVec.le_def,
    sqrtPriceOf_toNat, Reference.tick, ne_eq, not_true_eq_false, if_false]
  split_ifs <;> rfl

end InRange

/-- `P2T_op` is the exact-integer one for every operand (rules R101, R111). -/
theorem p2tOp_eq_reference (p : Word) : p2tOp Config.romImage p = Reference.p2t p.toNat := by
  by_cases hp : priceInRange Config.romImage p = true
  · rw [p2tOp_of_inRange hp, Reference.p2t, if_pos ((priceInRange_iff p).mp hp)]
  · rw [p2tOp, if_neg hp, Reference.p2t, if_neg (fun h => hp ((priceInRange_iff p).mpr h))]
    rfl

end Sys2Proof.Proofs.PriceToTick

/-! ### RDC reads the listed values (42_rom_read.md rules R130, R131) -/

namespace Sys2Proof.Proofs.RomRead

open Sys2Proof.Machine

/-- The ROM image holds the decimal column as 256-bit patterns. -/
theorem romImage_getElem (i : Fin 27) : Config.romImage[i] = BitVec.ofInt 256 (Reference.romValue i.val) := by
  revert i; decide

/-- `RDC_op` is the exact-integer one for every index with an entry. -/
theorem rdcOp_eq_reference {idx : BitVec 8} (h : idx.toNat ≤ 26) :
    rdcOp Config.romImage idx = Reference.rdc idx.toNat := by
  have hread : romRead Config.romImage idx = some (BitVec.ofInt 256 (Reference.romValue idx.toNat)) := by
    rw [romRead, Vector.getElem?_eq_getElem (Nat.lt_succ_of_le h)]
    exact congrArg some (romImage_getElem ⟨idx.toNat, Nat.lt_succ_of_le h⟩)
  rw [rdcOp, hread]
  rfl

end Sys2Proof.Proofs.RomRead

/-! ### Every response is `Exec` of its request (10_state.md rule R29) -/

namespace Sys2Proof.Proofs.Refinement

open Sys2Proof.Machine Sys2Proof.Laws Sys2Proof.Safety Sys2Proof.Proofs.Fields Sys2Proof.Proofs.TickToPrice
  Sys2Proof.Proofs.PriceToTick Sys2Proof.Proofs.RomRead

/-- Each operation answers as the exact-integer rules say. -/
theorem opResponse_eq_refResponse {i : Instr} (h : i.wellFormed = true) :
    opResponse Config.romImage i = refResponse i := by
  cases i with
  | t2p opd => exact t2pOp_eq_reference opd.toInt
  | p2t opd => exact p2tOp_eq_reference opd
  | rdc idx opd => exact rdcOp_eq_reference (of_decide_eq_true h)

/-- The engine's response to a request is `Exec` of it (rule R69). -/
theorem respondTo_eq_reference (r : Request) : respondTo Config.romImage r = Reference.exec r := by
  cases h : decode r with
  | ok i =>
    rw [reference_exec_of_ok h, ← opResponse_eq_refResponse (wellFormed_of_decode h), respondTo, h]
  | error e =>
    rw [reference_exec_of_error h, respondTo, h]
    rfl

/-- Settles O8: an edge that takes a response answers the oldest request with the engine's own response, which is `Exec`
of that request. -/
theorem everyResponseIsExecOfItsRequest : Obligations.EveryResponseIsExecOfItsRequest := by
  intro s hrom htaken
  obtain ⟨-, -, slot, rest, hqueue, -⟩ := (rspTaken_iff s).mp htaken
  refine ⟨slot, rest, hqueue, ?_⟩
  rw [← respondTo_eq_reference, ← hrom]
  exact step_of_taken s hqueue htaken

end Sys2Proof.Proofs.Refinement

/-! ### The ROM: what no step changes, and what it holds (20_memory.md rules R41, R42, R44) -/

namespace Sys2Proof.Proofs.RomContents

open Sys2Proof.Machine Sys2Proof.Laws Sys2Proof.Proofs.TickToPrice Sys2Proof.Proofs.PriceToTick
  Sys2Proof.Proofs.RomRead

/-! #### The ROM is constant -/

/-- A reset edge, an edge that answers and one that does not all carry the ROM over. -/
theorem step_rom {s t : State} (h : step s = .next t) : t.rom = s.rom := by
  rcases step_cases s with ⟨-, hstep⟩ | ⟨-, -, slot, rest, -, hstep⟩ | ⟨-, -, hstep⟩
  all_goals rw [hstep] at h; cases h; rfl

/-- Settles O31: a read depends on the ROM alone, which no edge changes. -/
theorem romNeverChanges : Obligations.RomNeverChanges := by
  intro s t h
  exact ⟨step_rom h, fun idx => congrArg (romRead · idx) (step_rom h)⟩

/-! #### The multiplier table -/

theorem k_pos (i : Fin 20) : 0 < Reference.k i.val := by
  revert i; decide

/-- `k - 1/2 < 2^128 / sqrt(1.0001)^(2^i) < k + 1/2`, doubled, squared and cleared of its denominator. -/
def IsNearestPower (i k : Nat) : Prop :=
  (2 * k - 1) ^ 2 * 10001 ^ 2 ^ i < 2 ^ 258 * 10000 ^ 2 ^ i ∧
    2 ^ 258 * 10000 ^ 2 ^ i < (2 * k + 1) ^ 2 * 10001 ^ 2 ^ i

/-- Evaluated by the kernel on the exact powers, the largest of them `10001 ^ 2 ^ 19`. -/
theorem k_isNearestPower (i : Fin 20) : IsNearestPower i.val (Reference.k i.val) := by
  unfold IsNearestPower
  revert i; decide +kernel

/-- Settles O32: the hex column equals the decimal one, whose entries are the rounded powers. -/
theorem multiplierTableIsRoundedPowers : Obligations.MultiplierTableIsRoundedPowers := by
  intro i
  obtain ⟨hlow, hhigh⟩ := k_isNearestPower i
  exact ⟨romK_toNat i, k_pos i, k_lt i, hlow, hhigh⟩

/-! #### The bounds and the auxiliary constants -/

/-- Read as two's complement, the hex column is the decimal one. -/
theorem romEntry_toInt (i : Fin 27) : (romEntry Config.romImage i).toInt = Reference.romValue i.val := by
  have hfits : ∀ j : Fin 27, -2 ^ 255 ≤ Reference.romValue j.val ∧ Reference.romValue j.val < 2 ^ 255 := by decide
  rw [romEntry, romImage_getElem]
  exact BitVec.toInt_ofInt_eq_self (by decide) (hfits i).1 (hfits i).2

/-- `MIN_TICK` is negative: its pattern lies `887272` below `2^256` (rule R42). -/
theorem romMinTick_toNat : (romEntry Config.romImage 20).toNat = 2 ^ 256 - 887272 := rfl

/-- The exact-integer price of `MIN_TICK` (rule R42). -/
theorem price_minTick : Reference.price Reference.minTick = Reference.minSqrtRatio := by decide +kernel

/-- The exact-integer price of `MAX_TICK` (rule R42). -/
theorem price_maxTick : Reference.price Reference.maxTick = Reference.maxSqrtRatio := by decide +kernel

theorem sqrtPriceOf_minTick : sqrtPriceOf Config.romImage Reference.minTick = romMinSqrtRatio Config.romImage :=
  BitVec.eq_of_toNat_eq (by rw [sqrtPriceOf_toNat, price_minTick, romMinSqrtRatio_toNat])

theorem sqrtPriceOf_maxTick : sqrtPriceOf Config.romImage Reference.maxTick = romMaxSqrtRatio Config.romImage :=
  BitVec.eq_of_toNat_eq (by rw [sqrtPriceOf_toNat, price_maxTick, romMaxSqrtRatio_toNat])

/-- Settles O33: the entries are the listed constants, and the datapath's prices of the tick bounds are the
exact-integer ones. -/
theorem romBoundsAreT2POfTickBounds : Obligations.RomBoundsAreT2POfTickBounds := by
  have hmax_lt : (romEntry Config.romImage 23).toNat < 2 ^ 160 := by decide
  exact ⟨romEntry_toInt 20, romEntry_toInt 21, romMinSqrtRatio_toNat, romMaxSqrtRatio_toNat, hmax_lt,
    romMinTick_toNat, romEntry_toInt 24, romEntry_toInt 25, romEntry_toInt 26, sqrtPriceOf_minTick,
    sqrtPriceOf_maxTick⟩

end Sys2Proof.Proofs.RomContents

/-! ### The price of a tick fits 160 bits (30_encoding.md rule R67, 40_tick_to_price.md rule R88) -/

namespace Sys2Proof.Proofs.PriceRange

open Sys2Proof.Machine Sys2Proof.Proofs.TickToPrice

/-! #### More set bits, a smaller ratio -/

/-- Every set bit of `a` is set in `b`. -/
def BitsWithin (a b : Nat) : Prop := ∀ i, a.testBit i = true → b.testBit i = true

theorem mul_k_div_le (r : Nat) (i : Fin 20) : r * Reference.k i.val / 2 ^ 128 ≤ r :=
  Nat.div_le_of_le_mul (by rw [Nat.mul_comm]; exact Nat.mul_le_mul_right r (k_lt i).le)

/-- A step shrinks the ratio, and takes equally ordered ratios to equally ordered ones. -/
theorem chainStep_le_of_bitsWithin {a b ra rb : Nat} (hab : BitsWithin a b) (hr : rb ≤ ra) (i : Fin 20) :
    Reference.chainStep b rb i.val ≤ Reference.chainStep a ra i.val := by
  unfold Reference.chainStep
  split_ifs with hb ha ha
  · exact Nat.div_le_div_right (Nat.mul_le_mul_right _ hr)
  · exact (mul_k_div_le rb i).trans hr
  · exact absurd (hab i ha) hb
  · exact hr

theorem foldl_chainStep_le_of_bitsWithin {a b ra rb : Nat} (hab : BitsWithin a b) (hr : rb ≤ ra)
    (order : List (Fin 20)) :
    (order.map Fin.val).foldl (Reference.chainStep b) rb ≤ (order.map Fin.val).foldl (Reference.chainStep a) ra := by
  induction order generalizing ra rb with
  | nil => exact hr
  | cons i order ih => exact ih (chainStep_le_of_bitsWithin hab hr i)

theorem initial_le_of_bitsWithin {a b : Nat} (hab : BitsWithin a b) :
    (if b.testBit 0 then Reference.k 0 else 2 ^ 128) ≤ if a.testBit 0 then Reference.k 0 else 2 ^ 128 := by
  split_ifs with hb ha ha
  · exact le_rfl
  · exact (k_lt 0).le
  · exact absurd (hab 0 ha) hb
  · exact le_rfl

theorem ratio_le_of_bitsWithin {a b : Nat} (hab : BitsWithin a b) : Reference.ratio b ≤ Reference.ratio a := by
  have horder : List.range' 1 19 = chainOrder.map Fin.val := by decide
  unfold Reference.ratio
  rw [horder]
  exact foldl_chainStep_le_of_bitsWithin hab (initial_le_of_bitsWithin hab) chainOrder

/-! #### The least ratio -/

/-- `n` cut down to a multiple of `2 ^ j`, less one: where `2 ^ j ≤ n`, a number below `n` with its low `j` bits set. -/
def belowCut (n j : Nat) : Nat := n / 2 ^ j * 2 ^ j - 1

/-- Halve both until they part: at the last bit position where they differ, they differ by one. -/
theorem exists_div_two_pow_succ_eq {width a n : Nat} (han : a < n) (hn : n < 2 ^ width) :
    ∃ j < width, a / 2 ^ j + 1 = n / 2 ^ j := by
  induction width generalizing a n with
  | zero => omega
  | succ width ih =>
    by_cases hhalf : a / 2 < n / 2
    · obtain ⟨j, hj, heq⟩ := ih hhalf (by rw [pow_succ] at hn; omega)
      refine ⟨j + 1, Nat.succ_lt_succ hj, ?_⟩
      rwa [pow_succ', ← Nat.div_div_eq_div_mul, ← Nat.div_div_eq_div_mul]
    · exact ⟨0, width.succ_pos, by rw [pow_zero, Nat.div_one, Nat.div_one]; omega⟩

/-- The cuts of `n` cover everything below `n`. -/
theorem exists_bitsWithin_belowCut {width a n : Nat} (han : a < n) (hn : n < 2 ^ width) :
    ∃ j < width, BitsWithin a (belowCut n j) := by
  obtain ⟨j, hj, heq⟩ := exists_div_two_pow_succ_eq han hn
  refine ⟨j, hj, fun i hi => ?_⟩
  have hpos : 0 < 2 ^ j := by positivity
  have hcut : belowCut n j = 2 ^ j * (a / 2 ^ j) + (2 ^ j - 1) := by
    rw [belowCut, ← heq, Nat.add_mul, Nat.mul_comm, Nat.one_mul, Nat.add_sub_assoc hpos]
  rw [hcut, Nat.testBit_two_pow_mul_add _ (Nat.sub_lt hpos Nat.one_pos)]
  split
  case isTrue hlow => rw [Nat.testBit_two_pow_sub_one, decide_eq_true hlow]
  case isFalse hhigh => rw [Nat.testBit_div_two_pow, Nat.sub_add_cancel (not_lt.mp hhigh)]; exact hi

/-- Evaluated by the kernel: by the cover above, these twenty ratios bound those of all ticks. -/
theorem lt_ratio_belowCut : ∀ j < 20, 2 ^ 64 < Reference.ratio (belowCut 887273 j) := by decide +kernel

/-- No ratio of the chain falls to `2^64` (rule R88). -/
theorem lt_ratio {a : Nat} (ha : a ≤ 887272) : 2 ^ 64 < Reference.ratio a := by
  obtain ⟨j, hj, hwithin⟩ := exists_bitsWithin_belowCut (width := 20) (Nat.lt_succ_of_le ha) (by norm_num)
  exact (lt_ratio_belowCut j hj).trans_le (ratio_le_of_bitsWithin hwithin)

theorem ratio_le (a : Nat) : Reference.ratio a ≤ 2 ^ 128 := (ratioRefines_chainRatio a).2

/-- Rule R67: the result of T2P is a 160-bit price. -/
theorem price_lt {t : Int} (ht : (t.natAbs : Int) ≤ Reference.maxTick) : Reference.price t < 2 ^ 160 := by
  have hmin := lt_ratio (a := t.natAbs) (by unfold Reference.maxTick at ht; omega)
  have hmax := ratio_le t.natAbs
  have hdiv : (2 ^ 256 - 1) / Reference.ratio t.natAbs ≤ (2 ^ 256 - 1) / (2 ^ 64 + 1) :=
    Nat.div_le_div_left hmin (by norm_num)
  simp only [Reference.price]
  split <;> omega

end Sys2Proof.Proofs.PriceRange

/-! ### The response ports (30_encoding.md rules R66, R67) -/

namespace Sys2Proof.Proofs.ResponsePorts

open Sys2Proof.Machine Sys2Proof.Laws Sys2Proof.Proofs.Fields Sys2Proof.Proofs.TickToPrice
  Sys2Proof.Proofs.PriceToTick Sys2Proof.Proofs.PriceRange Sys2Proof.Proofs.Refinement

/-! #### What the ports show -/

theorem code_eq_zero_iff (e : Status) : e.code = 0b00#2 ↔ e = .ok := by
  cases e <;> decide

theorem offered_of_rspValid {s : State} {slot : Slot} {rest : List Slot} (hvalid : s.rspValid = true)
    (hqueue : s.inflight = slot :: rest) : s.offered = some (respondTo s.rom slot.req) := by
  simp [State.offered, hvalid, hqueue]

theorem rspStatus_of_offered {s : State} {rsp : Response} (h : s.offered = some rsp) :
    s.rspStatus = rsp.status.code := by
  simp [State.rspStatus, h]

theorem rspResult_of_offered {s : State} {rsp : Response} (h : s.offered = some rsp) : s.rspResult = rsp.result := by
  simp [State.rspResult, h]

/-! #### The result of each operation -/

theorem reference_t2p_of_ok {t : Int} (h : (Reference.t2p t).status = .ok) :
    (Reference.t2p t).result = BitVec.ofNat 256 (Reference.price t) ∧ Reference.price t < 2 ^ 160 := by
  unfold Reference.t2p at h ⊢
  split_ifs at h ⊢ with hout
  exact ⟨rfl, price_lt (not_lt.mp hout)⟩

/-- The 32-bit candidate the datapath chooses is the exact tick, so 32 bits hold it (rules R110, R113). -/
theorem sext256_ofInt_tick {p : Word} (hp : priceInRange Config.romImage p = true) :
    sext256 (BitVec.ofInt 32 (Reference.tick p.toNat)) = BitVec.ofInt 256 (Reference.tick p.toNat) := by
  have hlow : sext256 (BitVec.ofInt 32 (Reference.tickLow p.toNat)) = BitVec.ofInt 256 (Reference.tickLow p.toNat) := by
    rw [← sext256_tickLow hp, ← path_tickLow_toInt hp, BitVec.ofInt_toInt]
  have hhigh : sext256 (BitVec.ofInt 32 (Reference.tickHigh p.toNat)) =
      BitVec.ofInt 256 (Reference.tickHigh p.toNat) := by
    rw [← sext256_tickHigh hp, ← path_tickHigh_toInt hp, BitVec.ofInt_toInt]
  unfold Reference.tick
  split_ifs
  · exact hlow
  · exact hhigh
  · exact hlow

theorem reference_p2t_of_ok {p : Word} (h : (Reference.p2t p.toNat).status = .ok) :
    (Reference.p2t p.toNat).result = sext256 (BitVec.ofInt 32 (Reference.tick p.toNat)) := by
  unfold Reference.p2t at h ⊢
  split_ifs at h ⊢ with hin
  exact (sext256_ofInt_tick ((priceInRange_iff p).mpr hin)).symm

theorem romRead_of_rdcOp_ok {rom : Vector Word 27} {idx : BitVec 8} (h : (rdcOp rom idx).status = .ok) :
    romRead rom idx = some (rdcOp rom idx).result := by
  unfold rdcOp at h ⊢
  cases hread : romRead rom idx with
  | some v => rfl
  | none => rw [hread] at h; cases h

/-- Rule R67: a status other than OK comes with the result 0. -/
theorem refResponse_result_of_not_ok {i : Instr} (h : (refResponse i).status ≠ .ok) :
    (refResponse i).result = 0#256 := by
  cases i with
  | t2p opd =>
    simp only [refResponse, Reference.t2p] at h ⊢
    split_ifs at h ⊢
    · rfl
    · exact absurd rfl h
  | p2t opd =>
    simp only [refResponse, Reference.p2t] at h ⊢
    split_ifs at h ⊢
    · exact absurd rfl h
    · rfl
  | rdc idx opd => exact absurd rfl h

theorem reference_exec_result_of_not_ok {r : Request} (h : (Reference.exec r).status ≠ .ok) :
    (Reference.exec r).result = 0#256 := by
  cases hdecode : decode r with
  | ok i =>
    rw [reference_exec_of_ok hdecode] at h ⊢
    exact refResponse_result_of_not_ok h
  | error e => rw [reference_exec_of_error hdecode]; rfl

/-- Settles O52: the ports show the engine's response to the oldest request, which is `Exec` of it, and `Exec` has each
operation's result in the format of rule R67. -/
theorem responsePortsCarryExec : Obligations.ResponsePortsCarryExec := by
  intro s hrom hvalid
  obtain ⟨-, slot, rest, hqueue, -⟩ := (rspValid_iff s).mp hvalid
  have hoffered := offered_of_rspValid hvalid hqueue
  rw [hrom, respondTo_eq_reference] at hoffered
  rw [rspStatus_of_offered hoffered, rspResult_of_offered hoffered, hrom]
  simp only [ne_eq, code_eq_zero_iff]
  refine ⟨slot, rest, hqueue, rfl, rfl, ?_, ?_, ?_, reference_exec_result_of_not_ok⟩
  · intro opd hdecode hok
    rw [reference_exec_of_ok hdecode] at hok ⊢
    exact reference_t2p_of_ok hok
  · intro opd hdecode hok
    rw [reference_exec_of_ok hdecode] at hok ⊢
    exact reference_p2t_of_ok hok
  · intro idx opd hdecode
    have hok : (Reference.exec slot.req).status = .ok := by rw [reference_exec_of_ok hdecode]; rfl
    refine ⟨hok, ?_⟩
    rw [reference_exec_of_ok hdecode, ← opResponse_eq_refResponse (wellFormed_of_decode hdecode)] at hok ⊢
    exact romRead_of_rdcOp_ok hok

end Sys2Proof.Proofs.ResponsePorts

/-! ### Illegal requests (30_encoding.md rule R68) -/

namespace Sys2Proof.Proofs.IllegalRequests

open Sys2Proof.Machine Sys2Proof.Laws Sys2Proof.Proofs.Fields

/-- The four cases of rule R68, in its order. -/
def IllegalCommand (cmd : BitVec 32) : Prop :=
  (opField cmd ≠ 0x01#8 ∧ opField cmd ≠ 0x02#8 ∧ opField cmd ≠ 0x03#8) ∨
    rsvField cmd ≠ 0#16 ∨
    ((opField cmd = 0x01#8 ∨ opField cmd = 0x02#8) ∧ idxField cmd ≠ 0#8) ∨
    (opField cmd = 0x03#8 ∧ 26 < (idxField cmd).toNat)

theorem illegalCommand_of_decode_error {r : Request} {e : DecodeError} (h : decode r = .error e) :
    IllegalCommand r.cmd := by
  unfold decode romIndexOk at h
  split_ifs at h with hrsv hop1 hidx hop2 hidx hop3 hidx
  · exact .inr (.inl hrsv)
  · exact .inr (.inr (.inl ⟨.inl hop1, hidx⟩))
  · exact .inr (.inr (.inl ⟨.inr hop2, hidx⟩))
  · exact .inr (.inr (.inr ⟨hop3, not_le.mp (of_decide_eq_false (Bool.eq_false_of_not_eq_true hidx))⟩))
  · exact .inl ⟨hop1, hop2, hop3⟩

theorem not_illegalCommand_of_decode_ok {r : Request} {i : Instr} (h : decode r = .ok i) : ¬ IllegalCommand r.cmd := by
  obtain ⟨hrsv, ⟨hop, hidx, -⟩ | ⟨hop, hidx, -⟩ | ⟨hop, hidx, -⟩⟩ := decode_ok_cases h
  · simp [IllegalCommand, hrsv, hop, hidx]
  · simp [IllegalCommand, hrsv, hop, hidx]
  · simp [IllegalCommand, hrsv, hop, hidx]

theorem decode_error_iff (r : Request) : (∃ e, decode r = .error e) ↔ IllegalCommand r.cmd := by
  refine ⟨fun ⟨e, he⟩ => illegalCommand_of_decode_error he, fun hillegal => ?_⟩
  cases h : decode r with
  | ok i => exact absurd hillegal (not_illegalCommand_of_decode_ok h)
  | error e => exact ⟨e, rfl⟩

theorem respondTo_of_error (rom : Vector Word 27) {r : Request} {e : DecodeError} (h : decode r = .error e) :
    respondTo rom r = ⟨.illegalRequest, 0#256⟩ := by
  rw [respondTo, h]
  rfl

/-- Settles O5: the decoder's error branches are the cases of rule R68, and an edge that takes the response of such a
request answers it like any other, with (ILLEGAL_REQUEST, 0). -/
theorem illegalRequestsAreAnsweredInOrder : Obligations.IllegalRequestsAreAnsweredInOrder := by
  refine ⟨fun r => decode_error_iff r, fun s slot rest e hqueue herror htaken => ?_⟩
  rw [step_of_taken s hqueue htaken, respondTo_of_error s.rom herror]

end Sys2Proof.Proofs.IllegalRequests

/-! ### Request lines (30_encoding.md rules R73 to R75) -/

namespace Sys2Proof.Proofs.RequestLines

open Sys2Proof.Machine

theorem assemble_t2p {t : Int} (hmin : -2 ^ 255 ≤ t) (hmax : t < 2 ^ 255) :
    assemble (.t2p t) = some ⟨0x00000001#32, BitVec.ofInt 256 t⟩ := if_pos ⟨hmin, hmax⟩

theorem assemble_p2t {p : Nat} (h : p < 2 ^ 256) : assemble (.p2t p) = some ⟨0x00000002#32, BitVec.ofNat 256 p⟩ :=
  if_pos h

theorem assemble_rdc {idx : Nat} (h : idx ≤ 255) :
    assemble (.rdc idx) = some ⟨BitVec.ofNat 32 (idx <<< 8 ||| 0x03), 0#256⟩ := if_pos h

theorem assemble_rdcNamed (name : ConstName) : assemble (.rdcNamed name) = assemble (.rdc name.index) := rfl

theorem assemble_req {cmd opd : Nat} (hcmd : cmd < 2 ^ 32) (hopd : opd < 2 ^ 256) :
    assemble (.req cmd opd) = some ⟨BitVec.ofNat 32 cmd, BitVec.ofNat 256 opd⟩ := if_pos ⟨hcmd, hopd⟩

/-- Settles O1: each number fits its line form, and what the form makes of it is the written word. -/
theorem exampleLinesEncodeAsWritten : Obligations.ExampleLinesEncodeAsWritten := by
  refine ⟨?_, ?_, ?_, ?_, by decide⟩
  · rw [assemble_t2p (by norm_num) (by norm_num)]; decide
  · rw [assemble_p2t (by norm_num)]
  · rw [assemble_rdcNamed, assemble_rdc (by decide)]; decide
  · rw [assemble_req (by norm_num) (by norm_num)]

/-! #### Named reads as text -/

/-- A line that parses as a named read assembles as a read of the name's index. -/
theorem assembleText_of_named {cs : List Char} {name : ConstName} (h : parseLine cs = some (.rdcNamed name)) :
    assembleText cs = assemble (.rdc name.index) := by
  rw [assembleText, h, Option.bind_some, assemble_rdcNamed]

/-- Settles O51: named and numbered reads share their arm of the assembler, and the parser, evaluated on each spelling,
reads the name it spells. -/
theorem namedReadsAssembleAsIndices : Obligations.NamedReadsAssembleAsIndices := by
  refine ⟨assemble_rdcNamed, fun _ => rfl, ?_, ?_, ?_, ?_, ?_, ?_, ?_, ?_⟩
  · exact assembleText_of_named (name := .k 19) (by decide +kernel)
  · exact assembleText_of_named (name := .minTick) (by decide +kernel)
  · exact assembleText_of_named (name := .maxTick) (by decide +kernel)
  · exact assembleText_of_named (name := .minSqrtRatio) (by decide +kernel)
  · exact assembleText_of_named (name := .maxSqrtRatio) (by decide +kernel)
  · exact assembleText_of_named (name := .sqrt10001) (by decide +kernel)
  · exact assembleText_of_named (name := .tickLowErr) (by decide +kernel)
  · exact assembleText_of_named (name := .tickHighErr) (by decide +kernel)

end Sys2Proof.Proofs.RequestLines

/-! ### The steps of the multiplier chain (40_tick_to_price.md rules R83, R84, R88) -/

namespace Sys2Proof.Proofs.MultiplierChain

open Sys2Proof.Machine Sys2Proof.Laws Sys2Proof.Proofs.TickToPrice

/-! #### One more bit position -/

theorem chainOrder_getElem? (n : Fin 19) : chainOrder[n.val]? = some n.succ := by
  revert n; decide

theorem ratioAfter_succ (rom : Vector Word 27) (a : Nat) (n : Fin 19) :
    ratioAfter rom a (n.val + 1) = chainStep rom a (ratioAfter rom a n.val) n.succ := by
  rw [ratioAfter, List.take_add_one, chainOrder_getElem?, Option.toList_some, List.foldl_concat, ratioAfter]

theorem initialRatio_toNat (rom : Vector Word 27) (a : Nat) :
    (initialRatio rom a).toNat = if a.testBit 0 then (romK rom 0).toNat else 2 ^ 128 := by
  unfold initialRatio
  split <;> rfl

theorem chainStep_toNat (rom : Vector Word 27) (a : Nat) (ratio : Word) (i : Fin 20) :
    (chainStep rom a ratio i).toNat =
      if a.testBit i.val then (ratio.toNat * (romK rom i).toNat % 2 ^ 256) / 2 ^ 128 else ratio.toNat := by
  unfold chainStep
  split
  · rw [ushiftRight_toNat, mulWrap_toNat]
  · rfl

/-- Settles O13: `K[i]` is ROM entry `i`, and the bit positions are taken in increasing order. -/
theorem multiplierChainSteps : Obligations.MultiplierChainSteps := by
  intro rom a
  refine ⟨initialRatio_toNat rom a, fun n hn => ?_, rfl⟩
  rw [ratioAfter_succ rom a ⟨n, hn⟩, chainStep_toNat]
  rfl

/-! #### The exact accumulator before the end of the chain -/

/-- The exact accumulator once bit positions 0 to `n` are done; `Reference.ratio` is its value for `n = 19`. -/
def ratioUpTo (a n : Nat) : Nat :=
  (List.range' 1 n).foldl (Reference.chainStep a) (if a.testBit 0 then Reference.k 0 else 2 ^ 128)

theorem ratio_eq_ratioUpTo (a : Nat) : Reference.ratio a = ratioUpTo a 19 := rfl

theorem ratioUpTo_succ (a n : Nat) : ratioUpTo a (n + 1) = Reference.chainStep a (ratioUpTo a n) (n + 1) := by
  rw [ratioUpTo, List.range'_concat, List.foldl_concat, ratioUpTo, Nat.one_mul, Nat.add_comm 1 n]

/-- Only the bits up to `n` matter. -/
theorem ratioUpTo_congr {a b n : Nat} (h : ∀ i ≤ n, a.testBit i = b.testBit i) : ratioUpTo a n = ratioUpTo b n := by
  induction n with
  | zero => simp [ratioUpTo, h 0 le_rfl]
  | succ n ih =>
    rw [ratioUpTo_succ, ratioUpTo_succ, ih fun i hi => h i (hi.trans n.le_succ)]
    simp [Reference.chainStep, h (n + 1) le_rfl]

/-- The machine's accumulator is the exact one after every step, so no product wraps on the way (rule R88). -/
theorem ratioRefines_ratioAfter (a : Nat) {n : Nat} (hn : n ≤ 19) :
    RatioRefines (ratioAfter Config.romImage a n) (ratioUpTo a n) := by
  induction n with
  | zero => exact ratioRefines_initial a
  | succ n ih =>
    rw [ratioAfter_succ Config.romImage a ⟨n, hn⟩, ratioUpTo_succ]
    exact (ih (Nat.le_of_succ_le hn)).chainStep a _

theorem ratioAfter_toNat (a : Nat) {n : Nat} (hn : n ≤ 19) :
    (ratioAfter Config.romImage a n).toNat = ratioUpTo a n := (ratioRefines_ratioAfter a hn).1

theorem ratioUpTo_le (a : Nat) {n : Nat} (hn : n ≤ 19) : ratioUpTo a n ≤ 2 ^ 128 := (ratioRefines_ratioAfter a hn).2

/-- A step never raises the accumulator. -/
theorem ratioUpTo_succ_le (a : Nat) {n : Nat} (hn : n < 19) : ratioUpTo a (n + 1) ≤ ratioUpTo a n := by
  rw [ratioUpTo_succ, Reference.chainStep]
  split
  · exact PriceRange.mul_k_div_le _ (Fin.succ ⟨n, hn⟩)
  · exact le_rfl

theorem ratio_le_ratioUpTo (a : Nat) {n : Nat} (hn : n ≤ 19) : Reference.ratio a ≤ ratioUpTo a n := by
  induction hn using Nat.decreasingInduction with
  | self => exact le_rfl
  | of_succ n hn ih => exact ih.trans (ratioUpTo_succ_le a hn)

/-- No product with a table entry wraps (rule R88). -/
theorem mul_k_lt {r : Nat} (hr : r ≤ 2 ^ 128) (i : Fin 20) : r * Reference.k i.val < 2 ^ 256 :=
  calc r * Reference.k i.val ≤ 2 ^ 128 * Reference.k i.val := Nat.mul_le_mul_right _ hr
    _ < 2 ^ 128 * 2 ^ 128 := Nat.mul_lt_mul_of_pos_left (k_lt i) (by positivity)
    _ = 2 ^ 256 := by norm_num

/-- A step that multiplies leaves less than `2^128`, the accumulator's largest value (rule R88). -/
theorem chainStep_lt {a r : Nat} {i : Fin 20} (hr : r ≤ 2 ^ 128) (hbit : a.testBit i.val = true) :
    Reference.chainStep a r i.val < 2 ^ 128 := by
  rw [Reference.chainStep, if_pos hbit, Nat.div_lt_iff_lt_mul (by positivity)]
  exact mul_k_lt hr i

end Sys2Proof.Proofs.MultiplierChain

/-! ### A larger tick has a larger price (40_tick_to_price.md rules R88, R89) -/

namespace Sys2Proof.Proofs.PriceOrder

open Sys2Proof.Machine Sys2Proof.Proofs.TickToPrice Sys2Proof.Proofs.PriceRange Sys2Proof.Proofs.MultiplierChain
  Sys2Proof.Proofs.RomContents

/-! #### Two accumulators that stay apart -/

/-- `y` lies below `x` by one part in `2^15`, but for `n` units that roundings may have cost `x`. Adjacent ticks differ by
half a part in `10^4`, which is more. -/
def Separated (n x y : Nat) : Prop := 2 ^ 15 * y ≤ (2 ^ 15 - 1) * (x + n)

/-- A multiplication by less than one, rounded down on both sides, costs one unit more. -/
theorem Separated.mul_div {n x y k : Nat} (h : Separated n x y) (hk : k ≤ 2 ^ 128) :
    Separated (n + 1) (x * k / 2 ^ 128) (y * k / 2 ^ 128) := by
  have hscaled : 2 ^ 15 * (y * k) ≤ (2 ^ 15 - 1) * (x * k + n * k) := by
    rw [← Nat.add_mul, ← Nat.mul_assoc, ← Nat.mul_assoc]
    exact Nat.mul_le_mul_right k h
  have hlost : n * k ≤ n * 2 ^ 128 := Nat.mul_le_mul_left n hk
  unfold Separated
  omega

theorem Separated.chainStep {n x y a b : Nat} (h : Separated n x y) {i : Fin 20}
    (hbit : a.testBit i.val = b.testBit i.val) :
    Separated (n + 1) (Reference.chainStep a x i.val) (Reference.chainStep b y i.val) := by
  simp only [Reference.chainStep, hbit]
  split
  · exact h.mul_div (k_lt i).le
  · exact h.trans (Nat.mul_le_mul_left _ (Nat.le_succ _))

/-- Where two ticks have the same bits above position `j`, the rest of the chain keeps them apart. -/
theorem separated_ratioUpTo {a b j n : Nat} (h : Separated j (ratioUpTo a j) (ratioUpTo b j))
    (hbits : ∀ i, j < i → a.testBit i = b.testBit i) (hjn : j ≤ n) (hn : n ≤ 19) :
    Separated n (ratioUpTo a n) (ratioUpTo b n) := by
  induction n, hjn using Nat.le_induction with
  | base => exact h
  | succ n hjn ih =>
    rw [ratioUpTo_succ, ratioUpTo_succ]
    exact (ih (Nat.le_of_succ_le hn)).chainStep (i := Fin.succ ⟨n, hn⟩) (hbits _ (Nat.lt_succ_of_le hjn))

/-! #### Adjacent ticks -/

/-- A carry clears the set bits below position `j`, sets bit `j` and leaves the bits above. -/
theorem exists_carry (a : Nat) : ∃ j q, a = 2 ^ (j + 1) * q + (2 ^ j - 1) ∧ a + 1 = 2 ^ (j + 1) * q + 2 ^ j := by
  obtain ⟨j, m, ⟨q, rfl⟩, hm⟩ := Nat.exists_eq_two_pow_mul_odd (Nat.succ_ne_zero a)
  have hpos : 0 < 2 ^ j := by positivity
  have hexpand : 2 ^ j * (2 * q + 1) = 2 ^ (j + 1) * q + 2 ^ j := by ring
  exact ⟨j, q, by omega, by omega⟩

/-- Evaluated by the kernel: at each of the twenty positions, `K[j]`
is less than the chain makes of all the bits below `j`. -/
theorem separated_carry (j : Fin 20) :
    Separated j.val (ratioUpTo (2 ^ j.val - 1) j.val) (ratioUpTo (2 ^ j.val) j.val) := by
  unfold Separated
  revert j; decide +kernel

theorem separated_ratio_succ {a : Nat} (ha : a < 887272) : Separated 19 (Reference.ratio a) (Reference.ratio (a + 1)) := by
  obtain ⟨j, q, heq, hsucc⟩ := exists_carry a
  have hj : j < 20 := (Nat.pow_lt_pow_iff_right one_lt_two).mp (by omega : 2 ^ j < 2 ^ 20)
  have hones : 2 ^ j - 1 < 2 ^ (j + 1) := by rw [pow_succ]; omega
  have hone : 2 ^ j < 2 ^ (j + 1) := Nat.pow_lt_pow_succ one_lt_two
  have hstart : Separated j (ratioUpTo a j) (ratioUpTo (a + 1) j) := by
    have hlow : ratioUpTo a j = ratioUpTo (2 ^ j - 1) j := ratioUpTo_congr fun i hi => by
      rw [heq, Nat.testBit_two_pow_mul_add _ hones, if_pos (Nat.lt_succ_of_le hi)]
    have hlow' : ratioUpTo (a + 1) j = ratioUpTo (2 ^ j) j := ratioUpTo_congr fun i hi => by
      rw [hsucc, Nat.testBit_two_pow_mul_add _ hone, if_pos (Nat.lt_succ_of_le hi)]
    rw [hlow, hlow']
    exact separated_carry ⟨j, hj⟩
  refine separated_ratioUpTo hstart (fun i hi => ?_) (Nat.le_of_lt_succ hj) le_rfl
  rw [hsucc, Nat.testBit_two_pow_mul_add _ hone, heq, Nat.testBit_two_pow_mul_add _ hones,
    if_neg (Nat.not_lt.mpr hi), if_neg (Nat.not_lt.mpr hi)]

/-- One tick more takes at least one unit of Q96 off the ratio. -/
theorem ratio_succ_add_le {a : Nat} (ha : a < 887272) : Reference.ratio (a + 1) + 2 ^ 32 ≤ Reference.ratio a := by
  have hsep := separated_ratio_succ ha
  have hmin := lt_ratio ha.le
  unfold Separated at hsep
  omega

theorem ratio_strictAntiOn : StrictAntiOn Reference.ratio (Set.Iic 887272) :=
  strictAntiOn_of_add_one_lt Set.ordConnected_Iic fun a _ _ ha => by
    have := ratio_succ_add_le (Nat.lt_of_succ_le ha)
    omega

/-- Evaluated by the kernel. -/
theorem ratio_maxTick : Reference.ratio 887272 = 0x1000276a221a17501 := by decide +kernel

/-- Rule R88: the last accumulator is least at the largest tick. -/
theorem le_ratio {a : Nat} (ha : a ≤ 887272) : 0x1000276a221a17501 ≤ Reference.ratio a :=
  ratio_maxTick ▸ ratio_strictAntiOn.antitoneOn ha (Set.mem_Iic.mpr le_rfl) ha

/-! #### The order of the prices -/

/-- Rule R86: `ceil(q / 2^32)`. -/
def ceilQ96 (q : Nat) : Nat := (q + (2 ^ 32 - 1)) / 2 ^ 32

theorem ceilQ96_lt {q q' : Nat} (h : q + 2 ^ 32 ≤ q') : ceilQ96 q < ceilQ96 q' := by
  unfold ceilQ96
  omega

theorem price_of_nonpos {t : Int} (ht : t ≤ 0) : Reference.price t = ceilQ96 (Reference.ratio t.natAbs) := by
  rw [Reference.price, if_neg (not_lt.mpr ht), ceilQ96]

theorem price_of_pos {t : Int} (ht : 0 < t) :
    Reference.price t = ceilQ96 ((2 ^ 256 - 1) / Reference.ratio t.natAbs) := by
  rw [Reference.price, if_pos ht, ceilQ96]

/-- Tick 0 is no exception: rounding up gives `2^96` with the reciprocal and without it. -/
theorem price_of_nonneg {t : Int} (ht : 0 ≤ t) :
    Reference.price t = ceilQ96 ((2 ^ 256 - 1) / Reference.ratio t.natAbs) := by
  rcases ht.eq_or_lt with rfl | hpos
  · decide
  · exact price_of_pos hpos

/-- Ratios one unit of Q96 apart have reciprocals as far apart. -/
theorem reciprocal_add_le {x y : Nat} (hy : 0 < y) (hxy : y + 2 ^ 32 ≤ x) (hx : x ≤ 2 ^ 128) :
    (2 ^ 256 - 1) / x + 2 ^ 32 ≤ (2 ^ 256 - 1) / y := by
  have hbig : y ≤ (2 ^ 256 - 1) / x := by
    rw [Nat.le_div_iff_mul_le (by omega)]
    calc y * x ≤ (2 ^ 128 - 1) * 2 ^ 128 := Nat.mul_le_mul (by omega) hx
      _ ≤ 2 ^ 256 - 1 := by norm_num
  rw [Nat.le_div_iff_mul_le hy]
  calc ((2 ^ 256 - 1) / x + 2 ^ 32) * y
      = (2 ^ 256 - 1) / x * y + 2 ^ 32 * y := Nat.add_mul ..
    _ ≤ (2 ^ 256 - 1) / x * y + 2 ^ 32 * ((2 ^ 256 - 1) / x) := Nat.add_le_add_left (Nat.mul_le_mul_left _ hbig) _
    _ = (2 ^ 256 - 1) / x * (y + 2 ^ 32) := by ring
    _ ≤ (2 ^ 256 - 1) / x * x := Nat.mul_le_mul_left _ hxy
    _ ≤ 2 ^ 256 - 1 := Nat.div_mul_le_self ..

/-- Below zero the ratio of the smaller tick is the smaller one, above zero the larger one, whose reciprocal is taken. -/
theorem price_lt_price_add_one {t : Int} (hmin : -887272 ≤ t) (hmax : t + 1 ≤ 887272) :
    Reference.price t < Reference.price (t + 1) := by
  rcases lt_or_ge t 0 with hneg | hnonneg
  · have habs : t.natAbs = (t + 1).natAbs + 1 := by omega
    rw [price_of_nonpos hneg.le, price_of_nonpos (by omega), habs]
    exact ceilQ96_lt (ratio_succ_add_le (by omega))
  · have habs : (t + 1).natAbs = t.natAbs + 1 := by omega
    have hlt : t.natAbs < 887272 := by omega
    have hpos : 0 < Reference.ratio (t.natAbs + 1) := (Nat.zero_le _).trans_lt (lt_ratio hlt)
    rw [price_of_nonneg hnonneg, price_of_nonneg (by omega), habs]
    exact ceilQ96_lt (reciprocal_add_le hpos (ratio_succ_add_le hlt) (ratio_le _))

theorem price_strictMonoOn : StrictMonoOn Reference.price (Set.Icc Reference.minTick Reference.maxTick) :=
  strictMonoOn_of_lt_add_one Set.ordConnected_Icc fun _ _ ht ht' => price_lt_price_add_one ht.1 ht'.2

/-- Rule R89: the results lie between the prices of the outermost ticks. -/
theorem price_bounds {t : Int} (ht : t ∈ Set.Icc Reference.minTick Reference.maxTick) :
    Reference.minSqrtRatio ≤ Reference.price t ∧ Reference.price t ≤ Reference.maxSqrtRatio := by
  have hle : Reference.minTick ≤ Reference.maxTick := by decide
  rw [← price_minTick, ← price_maxTick]
  exact ⟨price_strictMonoOn.monotoneOn (Set.left_mem_Icc.mpr hle) ht ht.1,
    price_strictMonoOn.monotoneOn ht (Set.right_mem_Icc.mpr hle) ht.2⟩

end Sys2Proof.Proofs.PriceOrder

/-! ### The responses of T2P and their bounds (40_tick_to_price.md rules R81 to R90) -/

namespace Sys2Proof.Proofs.TickResponses

open Sys2Proof.Machine Sys2Proof.Laws Sys2Proof.Safety Sys2Proof.Proofs.TickToPrice Sys2Proof.Proofs.PriceRange
  Sys2Proof.Proofs.MultiplierChain Sys2Proof.Proofs.PriceOrder

/-! #### The meaning of T2P -/

/-- T2P answers with its operation's response and does nothing else. -/
theorem exec_t2p {s : State} {slot : Slot} {rest : List Slot} (opd : Word) (hrom : s.rom = Config.romImage)
    (hqueue : s.inflight = slot :: rest) :
    exec (.t2p opd) s = .next (answered s rest (t2pOp Config.romImage opd.toInt)) := by
  rw [exec_eq_answer, answer_cons s _ hqueue, ← hrom]
  rfl

theorem natAbs_le_maxTick {t : Int} (hmin : -887272 ≤ t) (hmax : t ≤ 887272) : (t.natAbs : Int) ≤ Reference.maxTick := by
  unfold Reference.maxTick
  omega

/-- Settles O11: the datapath's price is the exact-integer one, and it fits 160 bits. -/
theorem t2PInRangeRespondsPrice : Obligations.T2PInRangeRespondsPrice := by
  intro s slot rest opd hrom hqueue hmin hmax
  have hrange := natAbs_le_maxTick hmin hmax
  rw [exec_t2p opd hrom hqueue, t2pOp_of_inRange hrange]
  exact ⟨rfl, (price_lt hrange).trans (by norm_num)⟩

/-- Settles O12: such an operand is beyond MAX_TICK in absolute value, taken without wrap (rule R82). -/
theorem t2POutOfRangeResponds : Obligations.T2POutOfRangeResponds := by
  intro s slot rest opd hrom hqueue hout
  have hrange : Reference.maxTick < (opd.toInt.natAbs : Int) := by unfold Reference.maxTick; omega
  rw [exec_t2p opd hrom hqueue, t2pOp_of_outOfRange hrange]

/-! #### Reciprocal and rounding -/

theorem reciprocal_of_nonpos {t : Int} (ht : t ≤ 0) (ratio : Word) : reciprocal t ratio = ratio :=
  if_neg (not_lt.mpr ht)

/-- Settles O14: the divisor's being nonzero is not needed, since the model divides by zero to zero (log 10). -/
theorem reciprocalForPositiveTicksOnly : Obligations.ReciprocalForPositiveTicksOnly := by
  refine fun t ratio => ⟨fun hpos _ => ?_, fun hnonpos => reciprocal_of_nonpos hnonpos ratio⟩
  rw [reciprocal_toNat, if_pos hpos]

/-- Settles O15: the two forms of rule R86 are the same number. -/
theorem roundingIsCeiling : Obligations.RoundingIsCeiling := by
  intro ratio
  refine ⟨?_, roundToQ96_toNat ratio⟩
  rw [roundToQ96_toNat]
  split <;> omega

/-! #### The bounds of rules R88 and R89 -/

theorem ratioUpTo_pos {a n : Nat} (ha : a ≤ 887272) (hn : n ≤ 19) : 0 < ratioUpTo a n :=
  ((Nat.zero_le _).trans_lt (lt_ratio ha)).trans_le (ratio_le_ratioUpTo a hn)

/-- Settles O16: each accumulator is the exact one, which steps never raise and which ends above `2^64`; the least
end and the largest price are those of MAX_TICK, since the ratio falls and the price rises with the tick. -/
theorem t2PChainBounds : Obligations.T2PChainBounds := by
  refine ⟨fun a ha => ⟨fun n hn => ?_, fun n hn hbit => ?_, ?_⟩, ?_, fun t hmin hmax => ⟨?_, ?_, by decide⟩⟩
  · rw [ratioAfter_toNat a hn]
    refine ⟨ratioUpTo_pos ha hn, ratioUpTo_le a hn, fun i => ?_⟩
    rw [romK_toNat]
    exact mul_k_lt (ratioUpTo_le a hn) i
  · rw [ratioAfter_toNat a hn, ratioUpTo_succ]
    exact chainStep_lt (i := Fin.succ ⟨n, hn⟩) (ratioUpTo_le a hn.le) hbit
  · rw [chainRatio_toNat]
    exact le_ratio ha
  · rw [chainRatio_toNat, ratio_maxTick]
  · have := (reciprocal t (chainRatio Config.romImage t.natAbs)).isLt
    omega
  · rw [sqrtPriceOf_toNat]
    exact (price_bounds ⟨hmin, hmax⟩).2

theorem t2pOp_result_toNat {t : Int} (hmin : -887272 ≤ t) (hmax : t ≤ 887272) :
    (t2pOp Config.romImage t).result.toNat = Reference.price t := by
  rw [t2pOp, if_pos ((tickInRange_iff t).mpr (natAbs_le_maxTick hmin hmax)), okResponse, sqrtPriceOf_toNat]

/-- Settles O17: adjacent ticks have ratios far enough apart for rounding to keep their order. -/
theorem t2PIsStrictlyIncreasing : Obligations.T2PIsStrictlyIncreasing := by
  refine ⟨fun t hmin hmax => ?_, fun t₁ t₂ hmin hlt hmax => ?_⟩
  · rw [t2pOp_result_toNat hmin hmax]
    exact price_bounds ⟨hmin, hmax⟩
  · rw [t2pOp_result_toNat hmin (hlt.le.trans hmax), t2pOp_result_toNat (hmin.trans hlt.le) hmax]
    exact price_strictMonoOn ⟨hmin, hlt.le.trans hmax⟩ ⟨hmin.trans hlt.le, hmax⟩ hlt

/-! #### Tick zero -/

/-- No step fires. -/
theorem ratioUpTo_zero_tick (n : Nat) : ratioUpTo 0 n = 2 ^ 128 := by
  induction n with
  | zero => rfl
  | succ n ih => rw [ratioUpTo_succ, Reference.chainStep, Nat.zero_testBit, if_neg Bool.false_ne_true, ih]

theorem price_zero : Reference.price 0 = 79228162514264337593543950336 := by
  rw [price_of_nonpos le_rfl, Int.natAbs_zero, ratio_eq_ratioUpTo, ratioUpTo_zero_tick]
  rfl

/-- Settles O18: no bit of tick 0 is set, so the accumulator is `2^128` from the first step to the last. -/
theorem t2POfZeroIsOne : Obligations.T2POfZeroIsOne := by
  refine ⟨fun n hn => ?_, reciprocal_of_nonpos le_rfl, fun s slot rest hrom hqueue => ?_⟩
  · rw [ratioAfter_toNat 0 hn, ratioUpTo_zero_tick]
  · rw [exec_t2p 0#256 hrom hqueue, BitVec.toInt_zero, t2pOp_of_inRange (by decide), price_zero]

end Sys2Proof.Proofs.TickResponses

/-! ### The datapath of P2T, step by step (41_price_to_tick.md rules R102 to R109, R112) -/

namespace Sys2Proof.Proofs.PricePath

open Sys2Proof.Machine Sys2Proof.Laws Sys2Proof.Proofs.BitLength Sys2Proof.Proofs.Logarithm
  Sys2Proof.Proofs.PriceToTick

/-! #### The steps of the bit-length search -/

/-- The amount and the threshold of the step that shifts by `2 ^ k`. -/
def searchConstants (k : Nat) : Word × Word := (BitVec.ofNat 256 (2 ^ k), BitVec.ofNat 256 (2 ^ 2 ^ k - 1))

theorem isSearchStep_searchConstants {k : Nat} (hk : k ≤ 7) : IsSearchStep k (searchConstants k) := by
  have hall : ∀ j : Fin 8, (searchConstants j.val).1.toNat = 2 ^ j.val ∧
      (searchConstants j.val).2.toNat + 1 = 2 ^ 2 ^ j.val := by decide
  exact hall ⟨k, Nat.lt_succ_of_le hk⟩

/-- The steps stand in the order of falling `k`. -/
theorem searchSteps_getElem? {k : Nat} (hmin : 1 ≤ k) (hmax : k ≤ 7) :
    Config.searchSteps[7 - k]? = some (searchConstants k) := by
  have hall : ∀ j : Fin 8, 1 ≤ j.val → Config.searchSteps[7 - j.val]? = some (searchConstants j.val) := by decide
  exact hall ⟨k, Nat.lt_succ_of_le hmax⟩ hmin

/-- One step as rule R103 gives it. -/
theorem searchStep_searchConstants {k : Nat} (hk : k ≤ 7) (r m : Word) :
    searchStep (r, m) (searchConstants k) =
      if 2 ^ 2 ^ k ≤ r.toNat then (r >>> 2 ^ k, m ||| BitVec.ofNat 256 (2 ^ k)) else (r, m) := by
  obtain ⟨hamount, hthreshold⟩ := isSearchStep_searchConstants hk
  have htest : r > (searchConstants k).2 ↔ 2 ^ 2 ^ k ≤ r.toNat := by
    rw [gt_iff_lt, BitVec.lt_def, ← hthreshold, Nat.succ_le_iff]
  simp only [searchStep, htest]
  split
  · rw [BitVec.ushiftRight_eq', hamount]
    rfl
  · simp

/-- Settles O21: each step is rule R103's, together they find the most significant bit, and a widened price has
between 65 and 192 bits. -/
theorem bitLengthSearchIsMsb : Obligations.BitLengthSearchIsMsb := by
  refine ⟨rfl, fun k hmin hmax => ⟨_, searchSteps_getElem? hmin hmax, searchStep_searchConstants hmax⟩,
    fun ratio => rfl, fun ratio hne => bitLengthSearch_toNat hne, fun p hp => ⟨widen_toNat hp, ?_⟩⟩
  obtain ⟨hmin, hmax⟩ := log2_widened_bounds hp
  rw [msb_toNat hp]
  exact ⟨hmin, Nat.le_of_lt_succ hmax⟩

/-! #### The working value and the start of the logarithm -/

/-- Settles O22: the datapath's shift is the exact scaling, whose bounds are those of rule R104. -/
theorem workingValueIsNormalised : Obligations.WorkingValueIsNormalised := by
  intro p hp x m
  have hx : x = p.toNat * 2 ^ 32 := widen_toNat hp
  have hm : m = Nat.log2 x := bitLengthSearch_toNat (widen_ne_zero hp)
  have hr : (p2tPath Config.romImage p).r.toNat = Reference.normalised x := hx ▸ normalise_widen_toNat hp
  obtain ⟨hmin, hmax⟩ := log2_widened_bounds hp
  obtain ⟨hle, hlt⟩ := normalised_bounds (widened_price_ne_zero hp)
  rw [← hx] at hmin hmax hle hlt
  refine ⟨hm ▸ hmin, hm ▸ Nat.le_of_lt_succ hmax, ?_, hr ▸ hle, hr ▸ hlt⟩
  rw [hr, hm, Reference.normalised]

theorem getLsbD_of_two_pow_dvd {l : Word} {bit i : Nat} (h : 2 ^ bit ∣ l.toNat) (hi : i < bit) :
    l.getLsbD i = false := by
  obtain ⟨q, hq⟩ := h
  rw [← BitVec.testBit_toNat, hq, Nat.testBit_two_pow_mul, decide_eq_false (not_le.mpr hi), Bool.false_and]

/-- Settles O23: the product is exact, and a multiple of `2^64`. -/
theorem logAccumulatorStart : Obligations.LogAccumulatorStart := by
  intro msb hmsb
  have hint : (log2Init msb).toInt = ((msb.toNat : Int) - 128) * 2 ^ 64 := by
    rw [log2Init_eq_ofInt, BitVec.toInt_ofInt_eq_self (by decide) (by omega) (by omega)]
  refine ⟨hint, ?_, fun i hi => getLsbD_of_two_pow_dvd (dvd_log2Init msb) hi⟩
  rw [hint]
  omega

/-! #### Between the squarings -/

/-- Before the first squaring no fraction bit is done. -/
theorem fractionRefines_start {r : Word} (init : Word) (hr : r.toNat < 2 ^ 128) (hinit : 2 ^ 64 ∣ init.toNat) :
    FractionRefines init 64 (r, init) (r.toNat, 0) where
  r_eq := rfl
  r_lt := hr
  log_eq := by simp
  low_bits_zero := hinit
  fraction_le := by norm_num

/-- After `n` squarings the bits from `64 - n` on are done. -/
theorem fractionRefines_fractionAfter {r : Word} (msb : Word) (hr : r.toNat < 2 ^ 128) {n : Nat} (hn : n ≤ 13) :
    ∃ rf, FractionRefines (log2Init msb) (64 - n) (fractionAfter r (log2Init msb) n) rf := by
  have hbits : ∀ j : Fin 14, fractionBits.take j.val = (List.range' (64 - j.val) j.val).reverse := by decide
  have hstart := fractionRefines_start (log2Init msb) hr (dvd_log2Init msb)
  rw [fractionAfter, hbits ⟨n, Nat.lt_succ_of_le hn⟩]
  exact ⟨_, FractionRefines.foldl (by rwa [Nat.sub_add_cancel (by omega)])⟩

/-! #### Exact sums and products -/

section InRange

variable {p : Word} (hp : priceInRange Config.romImage p = true)

include hp

/-- The change of base does not wrap (rule R112). -/
theorem logSqrt10001_bounds : -2 ^ 149 < Reference.log2 p.toNat * Reference.sqrt10001 ∧
    Reference.log2 p.toNat * Reference.sqrt10001 < 2 ^ 149 := by
  obtain ⟨hmin, hmax⟩ := log2_bounds hp
  simp only [Reference.sqrt10001]
  omega

theorem path_log2_toInt : (p2tPath Config.romImage p).log2.toInt = Reference.log2 p.toNat := by
  obtain ⟨hmin, hmax⟩ := log2_bounds hp
  rw [path_log2 hp, BitVec.toInt_ofInt_eq_self (by decide) (by omega) (by omega)]

theorem path_logSqrt10001_toInt :
    (p2tPath Config.romImage p).logSqrt10001.toInt = Reference.log2 p.toNat * Reference.sqrt10001 := by
  obtain ⟨hmin, hmax⟩ := logSqrt10001_bounds hp
  rw [path_logSqrt10001 hp, BitVec.toInt_ofInt_eq_self (by decide) (by omega) (by omega)]

theorem path_sub_tickLowErr_toInt :
    ((p2tPath Config.romImage p).logSqrt10001 - romTickLowErr Config.romImage).toInt =
      (p2tPath Config.romImage p).logSqrt10001.toInt - Reference.tickLowErr := by
  obtain ⟨hmin, hmax⟩ := logSqrt10001_bounds hp
  rw [path_logSqrt10001_toInt hp, path_logSqrt10001 hp, romTickLowErr_eq, BitVec.sub_eq_add_neg, ← BitVec.ofInt_neg,
    ← BitVec.ofInt_add, ← sub_eq_add_neg]
  refine BitVec.toInt_ofInt_eq_self (by decide) ?_ ?_ <;> simp only [Reference.tickLowErr] <;> omega

theorem path_add_tickHighErr_toInt :
    ((p2tPath Config.romImage p).logSqrt10001 + romTickHighErr Config.romImage).toInt =
      (p2tPath Config.romImage p).logSqrt10001.toInt + Reference.tickHighErr := by
  obtain ⟨hmin, hmax⟩ := logSqrt10001_bounds hp
  rw [path_logSqrt10001_toInt hp, path_logSqrt10001 hp, romTickHighErr_eq, ← BitVec.ofInt_add]
  refine BitVec.toInt_ofInt_eq_self (by decide) ?_ ?_ <;> simp only [Reference.tickHighErr] <;> omega

end InRange

/-- Settles O24: every intermediate value of the datapath is the exact one, and the exact ones are small. -/
theorem p2TNeverWraps : Obligations.P2TNeverWraps := by
  intro p hp path low high
  have hprice := (price_bounds hp).2
  have hratio : path.ratio.toNat = p.toNat * 2 ^ 32 := widen_toNat hp
  have hr : path.r.toNat = Reference.normalised (p.toNat * 2 ^ 32) := normalise_widen_toNat hp
  have hr_lt : path.r.toNat < 2 ^ 128 := hr ▸ (normalised_bounds (widened_price_ne_zero hp)).2
  have hmsb : path.msb.toNat = Nat.log2 (p.toNat * 2 ^ 32) := msb_toNat hp
  have hlog : path.log2.toInt = Reference.log2 p.toNat := path_log2_toInt hp
  have hproduct : path.logSqrt10001.toInt = Reference.log2 p.toNat * Reference.sqrt10001 := path_logSqrt10001_toInt hp
  obtain ⟨hlogmin, hlogmax⟩ := log2_bounds hp
  refine ⟨by omega, hr, fun n hn => ?_, by omega, by omega, ?_, by decide, ?_, ?_, by decide, by decide,
    path_sub_tickLowErr_toInt hp, path_add_tickHighErr_toInt hp⟩
  · obtain ⟨rf, h⟩ := fractionRefines_fractionAfter path.msb hr_lt hn
    have hlt := h.r_eq ▸ h.r_lt
    exact ⟨hlt, (Nat.mul_lt_mul'' hlt hlt).trans_eq (by norm_num),
      getLsbD_of_two_pow_dvd h.low_bits_zero (by omega)⟩
  · rw [hlog, hmsb, Reference.log2]
  · rw [hproduct, hlog]
    rfl
  · rw [hproduct]
    zify
    exact abs_lt.mpr (logSqrt10001_bounds hp)

end Sys2Proof.Proofs.PricePath

/-! ### The candidates, the choice and the responses of P2T (41_price_to_tick.md rules R101, R109 to R113) -/

namespace Sys2Proof.Proofs.PriceResponses

open Sys2Proof.Machine Sys2Proof.Laws Sys2Proof.Safety Sys2Proof.Proofs.TickToPrice Sys2Proof.Proofs.RomContents
  Sys2Proof.Proofs.PriceToTick Sys2Proof.Proofs.TickResponses Sys2Proof.Proofs.PricePath

/-! #### The meaning of P2T -/

/-- P2T answers with its operation's response and does nothing else. -/
theorem exec_p2t {s : State} {slot : Slot} {rest : List Slot} (opd : Word) (hrom : s.rom = Config.romImage)
    (hqueue : s.inflight = slot :: rest) :
    exec (.p2t opd) s = .next (answered s rest (p2tOp Config.romImage opd)) := by
  rw [exec_eq_answer, answer_cons s _ hqueue, ← hrom]
  rfl

/-- Settles O19: the datapath's tick is the exact-integer one. -/
theorem p2TInRangeRespondsTick : Obligations.P2TInRangeRespondsTick := by
  intro s slot rest opd hrom hqueue hmin hmax
  rw [exec_p2t opd hrom hqueue, p2tOp_of_inRange ((priceInRange_iff opd).mpr ⟨hmin, hmax⟩)]

/-- Settles O20: the range check fails. -/
theorem p2TOutOfRangeResponds : Obligations.P2TOutOfRangeResponds := by
  intro s slot rest opd hrom hqueue hout
  rw [exec_p2t opd hrom hqueue, p2tOp, if_neg fun hin => hout ((priceInRange_iff opd).mp hin), errorResponse]

/-! #### The candidates -/

/-- The two error bounds together are less than one tick (rule R109). -/
theorem tickHigh_eq_or (p : Nat) :
    Reference.tickHigh p = Reference.tickLow p ∨ Reference.tickHigh p = Reference.tickLow p + 1 := by
  simp only [Reference.tickHigh, Reference.tickLow, Reference.tickHighErr, Reference.tickLowErr]
  omega

/-- The three outcomes of rule R110. -/
theorem tick_cases (p : Nat) :
    (Reference.tickLow p = Reference.tickHigh p ∧ Reference.tick p = Reference.tickLow p) ∨
    (Reference.tickHigh p = Reference.tickLow p + 1 ∧ Reference.price (Reference.tickHigh p) ≤ p ∧
      Reference.tick p = Reference.tickHigh p) ∨
    (Reference.tickHigh p = Reference.tickLow p + 1 ∧ p < Reference.price (Reference.tickHigh p) ∧
      Reference.tick p = Reference.tickLow p) := by
  have hor := tickHigh_eq_or p
  unfold Reference.tick
  split_ifs with heq hle
  · exact .inl ⟨heq, rfl⟩
  · exact .inr (.inl ⟨hor.resolve_left (Ne.symm heq), hle, rfl⟩)
  · exact .inr (.inr ⟨hor.resolve_left (Ne.symm heq), not_le.mp hle, rfl⟩)

theorem tick_mem_candidates (p : Nat) :
    Reference.tickLow p ≤ Reference.tick p ∧ Reference.tick p ≤ Reference.tickHigh p := by
  obtain ⟨hlow, htick⟩ | ⟨hhigh, -, htick⟩ | ⟨hhigh, -, htick⟩ := tick_cases p <;> omega

/-- The sign bits that an arithmetic shift by 128 brings in lie above the 32 bits that are kept (rule R109). -/
theorem low32_asr_eq_ushiftRight (x : Word) : low32 (asr x 128) = low32 (x >>> 128) := by
  refine BitVec.eq_of_getLsbD_eq fun i hi => ?_
  have hshifted : 128 + i < 256 := by omega
  have hin : ¬ 256 ≤ i := by omega
  rw [low32, low32, asr, BitVec.getLsbD_setWidth, BitVec.getLsbD_setWidth, BitVec.getLsbD_sshiftRight,
    BitVec.getLsbD_ushiftRight]
  simp [hshifted, hin]

section InRange

variable {p : Word} (hp : priceInRange Config.romImage p = true)

include hp

/-- Rule R113: the range of `tickLow`. -/
theorem tickLow_bounds : -887273 ≤ Reference.tickLow p.toNat ∧ Reference.tickLow p.toNat ≤ 887271 := by
  obtain ⟨hmin, hmax⟩ := log2_bounds hp
  simp only [Reference.tickLow, Reference.sqrt10001, Reference.tickLowErr]
  omega

/-- Rule R113: the range of `tickHigh`. -/
theorem tickHigh_bounds : -887272 ≤ Reference.tickHigh p.toNat ∧ Reference.tickHigh p.toNat ≤ 887272 := by
  have := tickHigh_inRange hp
  unfold Reference.maxTick at this
  omega

/-- Rule R113: `-887273` loses against the price of `MIN_TICK`, and `887272` against that of `MAX_TICK`. -/
theorem tick_bounds : -887272 ≤ Reference.tick p.toNat ∧ Reference.tick p.toNat ≤ 887271 := by
  obtain ⟨hmin, hmax⟩ := (priceInRange_iff p).mp hp
  obtain ⟨hlowmin, hlowmax⟩ := tickLow_bounds hp
  obtain ⟨hhighmin, hhighmax⟩ := tickHigh_bounds hp
  obtain ⟨heq, htick⟩ | ⟨-, hprice, htick⟩ | ⟨hsucc, hprice, htick⟩ := tick_cases p.toNat
  · omega
  · have hne : Reference.tickHigh p.toNat ≠ Reference.maxTick := fun h => by
      rw [h, price_maxTick] at hprice
      omega
    unfold Reference.maxTick at hne
    omega
  · have hne : Reference.tickHigh p.toNat ≠ Reference.minTick := fun h => by
      rw [h, price_minTick] at hprice
      omega
    unfold Reference.minTick at hne
    omega

theorem p2tOp_result_toInt : (p2tOp Config.romImage p).result.toInt = Reference.tick p.toNat := by
  obtain ⟨hmin, hmax⟩ := tick_bounds hp
  rw [p2tOp_of_inRange hp]
  exact BitVec.toInt_ofInt_eq_self (by decide) (by omega) (by omega)

end InRange

/-- Settles O25: the candidates are exact floors less than one tick apart, and the answer is one of them. -/
theorem candidatesBracketTheTick : Obligations.CandidatesBracketTheTick := by
  refine ⟨by decide, low32_asr_eq_ushiftRight, fun p hp => ?_⟩
  intro path
  have hlow : path.tickLow.toInt = Reference.tickLow p.toNat := path_tickLow_toInt hp
  have hhigh : path.tickHigh.toInt = Reference.tickHigh p.toNat := path_tickHigh_toInt hp
  have hproduct : path.logSqrt10001.toInt = Reference.log2 p.toNat * Reference.sqrt10001 := path_logSqrt10001_toInt hp
  rw [hlow, hhigh, hproduct, p2tOp_result_toInt hp]
  refine ⟨rfl, rfl, ?_, tick_mem_candidates p.toNat⟩
  have := tickHigh_eq_or p.toNat
  omega

/-- Settles O26: the datapath compares the exact price of `tickHigh`, and the three cases of the exact choice exclude
each other. -/
theorem disambiguationChoosesCandidate : Obligations.DisambiguationChoosesCandidate := by
  intro p hp path priceHigh
  have hprice : priceHigh = Reference.price (Reference.tickHigh p.toNat) := by
    rw [← sqrtPriceOf_toNat]
    exact congrArg (·.result.toNat) (t2pOp_tickHigh hp)
  have heq : path.tickLow = path.tickHigh ↔ _ := tickLow_eq_tickHigh_iff hp
  have hlow : path.tickLow.toInt = Reference.tickLow p.toNat := path_tickLow_toInt hp
  have hhigh : path.tickHigh.toInt = Reference.tickHigh p.toNat := path_tickHigh_toInt hp
  rw [p2tOp_of_inRange hp, hprice, hlow, hhigh, ne_eq, heq, Reference.tick]
  refine ⟨fun h => ?_, fun h hle => ?_, fun h hlt => ?_⟩
  · rw [if_pos h]
  · rw [if_neg h, if_pos hle]
  · rw [if_neg h, if_neg (not_le.mpr hlt)]

/-- Evaluated by the kernel: the candidates at both ends of the range (rule R113). -/
theorem candidates_at_ends :
    ((p2tPath Config.romImage 4295128739#256).tickLow.toInt = -887273 ∧
      (p2tPath Config.romImage 4295128739#256).tickHigh.toInt = -887272) ∧
    (p2tPath Config.romImage 1461446703485210103287273052203988822378723970341#256).tickLow.toInt = 887271 ∧
      (p2tPath Config.romImage 1461446703485210103287273052203988822378723970341#256).tickHigh.toInt = 887272 := by
  decide +kernel

/-- Settles O27: the candidates' range is that of the logarithm, and the choice leaves out its outermost ticks. -/
theorem p2TResultRange : Obligations.P2TResultRange := by
  obtain ⟨⟨hlowmin, hhighmin⟩, hlowmax, hhighmax⟩ := candidates_at_ends
  refine ⟨hlowmin, hhighmin, hlowmax, hhighmax, fun p hp => ?_⟩
  intro path
  have hlow : path.tickLow.toInt = Reference.tickLow p.toNat := path_tickLow_toInt hp
  have hhigh : path.tickHigh.toInt = Reference.tickHigh p.toNat := path_tickHigh_toInt hp
  have hinner : t2pOp Config.romImage path.tickHigh.toInt = _ := t2pOp_tickHigh hp
  rw [hinner, hlow, hhigh, p2tOp_result_toInt hp, p2tOp_of_inRange hp]
  exact ⟨tickLow_bounds hp, tickHigh_bounds hp, rfl, rfl, tick_bounds hp⟩

end Sys2Proof.Proofs.PriceResponses

/-! ### Real logarithms of the datapath's numbers

Rule R114 compares the tick that P2T estimates by a logarithm with prices that T2P computes by multiplications. Both are
compared here with the real logarithm: every rounding on the way takes a number of at least `2^64` to a neighbouring
integer, which moves its logarithm by at most `1 / 2^64`, and the error bounds of rule R109 leave room for all of them. -/

namespace Sys2Proof.Proofs.RealLogarithm

open Real

/-! #### One rounding -/

theorem log_sub_log_le {a b : ℝ} (ha : 2 ^ 64 ≤ a) (hb : 2 ^ 64 ≤ b) (hab : b - a ≤ 1) :
    log b - log a ≤ 1 / 2 ^ 64 := by
  have ha0 : 0 < a := lt_of_lt_of_le (by positivity) ha
  have hb0 : 0 < b := lt_of_lt_of_le (by positivity) hb
  calc log b - log a = log (b / a) := (log_div hb0.ne' ha0.ne').symm
    _ ≤ b / a - 1 := log_le_sub_one_of_pos (by positivity)
    _ = (b - a) / a := by rw [sub_div, div_self ha0.ne']
    _ ≤ 1 / a := by gcongr
    _ ≤ 1 / 2 ^ 64 := by gcongr

/-- Large numbers at most 1 apart have close logarithms. -/
theorem abs_log_sub_log_le {a b : ℝ} (ha : 2 ^ 64 ≤ a) (hb : 2 ^ 64 ≤ b) (hab : |a - b| ≤ 1) :
    |log a - log b| ≤ 1 / 2 ^ 64 := by
  obtain ⟨hle, hge⟩ := abs_sub_le_iff.mp hab
  exact abs_sub_le_iff.mpr ⟨log_sub_log_le hb ha hle, log_sub_log_le ha hb hge⟩

/-- A quotient rounded down to a large number has about the logarithm of the exact quotient. -/
theorem abs_log_natDiv_sub_le {n d : ℕ} (h : 2 ^ 64 ≤ n / d) :
    |log (n / d : ℕ) - (log n - log d)| ≤ 1 / 2 ^ 64 := by
  have hd : 0 < d := Nat.pos_of_ne_zero fun h0 => by simp [h0] at h
  have hn : 0 < n := Nat.pos_of_ne_zero fun h0 => by simp [h0] at h
  have hle : ((n / d : ℕ) : ℝ) ≤ n / d := Nat.cast_div_le
  have hlt : (n : ℝ) / d < (n / d : ℕ) + 1 := by
    rw [← Nat.floor_div_eq_div (K := ℝ)]
    exact Nat.lt_floor_add_one _
  have hbig : (2 : ℝ) ^ 64 ≤ (n / d : ℕ) := by exact_mod_cast h
  rw [← log_div (by positivity) (by positivity)]
  exact abs_log_sub_log_le hbig (hbig.trans hle) (abs_le.mpr ⟨by linarith, by linarith⟩)

theorem log_natCast_two_pow (d : ℕ) : log (2 ^ d : ℕ) = d * log 2 := by
  rw [Nat.cast_pow, log_pow, Nat.cast_ofNat]

/-- The logarithm of the number that `n` stands for in Q128. -/
noncomputable def logQ128 (n : ℕ) : ℝ := log n - 128 * log 2

/-- The logarithm of the number that `n` stands for in Q127. -/
noncomputable def logQ127 (n : ℕ) : ℝ := log n - 127 * log 2

/-- The logarithm of the number that `n` stands for in Q96, as a price does. -/
noncomputable def logQ96 (n : ℕ) : ℝ := log n - 96 * log 2

theorem logQ128_mul_two_pow {p : ℕ} (hp : 0 < p) : logQ128 (p * 2 ^ 32) = logQ96 p := by
  rw [logQ128, logQ96, Nat.cast_mul, log_mul (by positivity) (by positivity), log_natCast_two_pow, Nat.cast_ofNat]
  ring

theorem logQ128_le_logQ128_iff {m n : ℕ} (hm : 0 < m) (hn : 0 < n) : logQ128 m ≤ logQ128 n ↔ m ≤ n := by
  rw [logQ128, logQ128, sub_le_sub_iff_right, log_le_log_iff (by positivity) (by positivity), Nat.cast_le]

/-! #### Half the logarithm of 1.0001 -/

/-- The logarithm of `sqrt(1.0001)`, the ratio of the prices of adjacent ticks. -/
noncomputable def logSqrt : ℝ := (log 10001 - log 10000) / 2

/-- Four terms of the series. -/
theorem logSqrt_bounds : 0.0000499975001 < logSqrt ∧ logSqrt < 0.0000499975002 := by
  have hseries := abs_log_sub_add_sum_range_le (x := -1 / 10000) (by norm_num [abs_lt]) 3
  have hlog : log (1 - -1 / 10000) = log 10001 - log 10000 := by
    rw [← log_div (by norm_num) (by norm_num)]
    norm_num
  rw [hlog] at hseries
  norm_num [Finset.sum_range_succ, abs_le] at hseries
  unfold logSqrt
  constructor <;> linarith [hseries.1, hseries.2]

/-- `SQRT_10001` is the reciprocal of that logarithm to base 2, in Q64 (20_memory.md rule R43). -/
theorem abs_sqrt10001_mul_logSqrt_sub_le :
    |(Reference.sqrt10001 : ℝ) * logSqrt - 2 ^ 64 * log 2| ≤ 2 ^ 64 * 0.000000002 := by
  obtain ⟨hmin, hmax⟩ := logSqrt_bounds
  rw [Reference.sqrt10001, abs_le]
  constructor <;> push_cast <;> linarith [log_two_gt_d9, log_two_lt_d9]

end Sys2Proof.Proofs.RealLogarithm

/-! ### The price of tick `t` is `sqrt(1.0001) ^ t`, but for roundings (40_tick_to_price.md rules R83 to R86) -/

namespace Sys2Proof.Proofs.PriceLogarithm

open Real Sys2Proof.Proofs.TickToPrice Sys2Proof.Proofs.RomContents Sys2Proof.Proofs.PriceRange
  Sys2Proof.Proofs.MultiplierChain Sys2Proof.Proofs.PriceOrder Sys2Proof.Proofs.RealLogarithm

/-! #### The multiplier table -/

theorem two_pow_lt_k (i : Fin 20) : 2 ^ 64 < Reference.k i.val := by
  revert i; decide

/-- The inequalities of `IsNearestPower` as logarithms. -/
theorem log_bounds_of_isNearestPower {i k : ℕ} (hk : 2 ^ 64 < k) (h : IsNearestPower i k) :
    log (2 * k - 1) ≤ 129 * log 2 - 2 ^ i * logSqrt ∧ 129 * log 2 - 2 ^ i * logSqrt ≤ log (2 * k + 1) := by
  obtain ⟨hlow, hhigh⟩ := h
  have hpow : ((2 ^ i : ℕ) : ℝ) = 2 ^ i := by push_cast; rfl
  unfold logSqrt
  rw [← hpow]
  generalize 2 ^ i = n at hlow hhigh
  have hk1 : (1 : ℝ) < k := by exact_mod_cast (by omega : 1 < k)
  have hsub : ((2 * k - 1 : ℕ) : ℝ) = 2 * k - 1 := by
    rw [Nat.cast_sub (by omega)]
    push_cast
    rfl
  have hlow' : ((2 * k - 1 : ℕ) : ℝ) ^ 2 * 10001 ^ n < 2 ^ 258 * 10000 ^ n := by exact_mod_cast hlow
  have hhigh' : (2 : ℝ) ^ 258 * 10000 ^ n < (2 * k + 1) ^ 2 * 10001 ^ n := by exact_mod_cast hhigh
  rw [hsub] at hlow'
  have hlow_pos : (0 : ℝ) < 2 * k - 1 := by linarith
  have hlog_low := log_lt_log (by positivity) hlow'
  have hlog_high := log_lt_log (by positivity) hhigh'
  rw [log_mul (by positivity) (by positivity), log_mul (by positivity) (by positivity), log_pow, log_pow, log_pow,
    log_pow] at hlog_low hlog_high
  push_cast at hlog_low hlog_high
  constructor <;> linarith

/-- Table entry `i` is the ratio of `-2^i` ticks (20_memory.md rule R41). -/
theorem abs_logQ128_k_add_le (i : Fin 20) : |logQ128 (Reference.k i.val) + 2 ^ i.val * logSqrt| ≤ 1 / 2 ^ 64 := by
  have hk := two_pow_lt_k i
  have hkreal : (2 : ℝ) ^ 64 < Reference.k i.val := by exact_mod_cast hk
  obtain ⟨hlow, hhigh⟩ := log_bounds_of_isNearestPower hk (k_isNearestPower i)
  have hdouble : log (2 * Reference.k i.val) = log 2 + log (Reference.k i.val) :=
    log_mul two_ne_zero (by linarith)
  have hdown := log_sub_log_le (a := 2 * Reference.k i.val - 1) (b := 2 * Reference.k i.val) (by linarith) (by linarith)
    (by linarith)
  have hup := log_sub_log_le (a := 2 * Reference.k i.val) (b := 2 * Reference.k i.val + 1) (by linarith) (by linarith)
    (by linarith)
  rw [hdouble] at hdown hup
  rw [logQ128, abs_le]
  constructor <;> linarith

/-! #### The chain -/

/-- A step multiplies by the ratio of `-2^i` ticks where bit `i` is set; the table's rounding and the product's cost one
unit each. -/
theorem abs_logQ128_chainStep_add_le {a r c : ℕ} {e : ℝ} {i : Fin 20} (hr : |logQ128 r + c * logSqrt| ≤ e)
    (hbig : 2 ^ 64 ≤ Reference.chainStep a r i.val) :
    |logQ128 (Reference.chainStep a r i.val) + (c + 2 ^ i.val * (a.testBit i.val).toNat : ℕ) * logSqrt| ≤
      e + 2 / 2 ^ 64 := by
  unfold Reference.chainStep at hbig ⊢
  cases hbit : a.testBit i.val with
  | false =>
    simp only [Bool.toNat_false, mul_zero, add_zero]
    exact hr.trans (le_add_of_nonneg_right (by positivity))
  | true =>
    rw [hbit, if_pos rfl] at hbig
    have hr0 : r ≠ 0 := fun h0 => by simp [h0] at hbig
    have hk0 : Reference.k i.val ≠ 0 := (k_pos i).ne'
    have hround := abs_log_natDiv_sub_le hbig
    have htable := abs_logQ128_k_add_le i
    have hmul : log (r * Reference.k i.val : ℕ) = log r + log (Reference.k i.val) := by
      rw [Nat.cast_mul, log_mul (by exact_mod_cast hr0) (by exact_mod_cast hk0)]
    rw [hmul, log_natCast_two_pow, Nat.cast_ofNat] at hround
    rw [if_pos rfl, Bool.toNat_true, mul_one]
    push_cast
    unfold logQ128 at hr htable ⊢
    rw [abs_le] at hr hround htable ⊢
    constructor <;> linarith [hr.1, hr.2, hround.1, hround.2, htable.1, htable.2]

theorem logQ128_one : logQ128 (2 ^ 128) = 0 := by
  rw [logQ128, log_natCast_two_pow, Nat.cast_ofNat, sub_self]

theorem abs_logQ128_ratioUpTo_zero_add_le (a : ℕ) :
    |logQ128 (ratioUpTo a 0) + (a % 2 : ℕ) * logSqrt| ≤ 2 / 2 ^ 64 := by
  have hzero : ratioUpTo a 0 = if a.testBit 0 then Reference.k 0 else 2 ^ 128 := rfl
  rw [hzero, Nat.testBit_zero]
  rcases Nat.mod_two_eq_zero_or_one a with heven | hodd
  · rw [if_neg (by simp [heven]), logQ128_one, heven]
    norm_num
  · simpa [hodd] using (abs_logQ128_k_add_le 0).trans (by norm_num : (1 : ℝ) / 2 ^ 64 ≤ 2 / 2 ^ 64)

/-- The accumulator once bit positions 0 to `n` are done is the ratio of as many negative ticks as these bits make. -/
theorem abs_logQ128_ratioUpTo_add_le {a n : ℕ} (ha : a ≤ 887272) (hn : n ≤ 19) :
    |logQ128 (ratioUpTo a n) + (a % 2 ^ (n + 1) : ℕ) * logSqrt| ≤ (n + 1) * (2 / 2 ^ 64) := by
  induction n with
  | zero => simpa using abs_logQ128_ratioUpTo_zero_add_le a
  | succ n ih =>
    have hbig : 2 ^ 64 ≤ ratioUpTo a (n + 1) := (lt_ratio ha).le.trans (ratio_le_ratioUpTo a hn)
    rw [ratioUpTo_succ] at hbig ⊢
    have hstep := abs_logQ128_chainStep_add_le (i := Fin.succ ⟨n, hn⟩) (ih (Nat.le_of_succ_le hn)) hbig
    rw [Nat.mod_pow_succ, ← Nat.toNat_testBit]
    refine hstep.trans_eq ?_
    push_cast
    ring

theorem abs_logQ128_ratio_add_le {a : ℕ} (ha : a ≤ 887272) :
    |logQ128 (Reference.ratio a) + a * logSqrt| ≤ 40 / 2 ^ 64 := by
  have h := abs_logQ128_ratioUpTo_add_le ha le_rfl
  rw [Nat.mod_eq_of_lt (ha.trans_lt (by norm_num)), ← ratio_eq_ratioUpTo] at h
  exact h.trans_eq (by norm_num)

/-! #### The price -/

/-- The Q128 number that rule R86 rounds up to a price. -/
def priceQ128 (t : ℤ) : ℕ := if 0 < t then (2 ^ 256 - 1) / Reference.ratio t.natAbs else Reference.ratio t.natAbs

theorem price_eq_ceilQ96 (t : ℤ) : Reference.price t = ceilQ96 (priceQ128 t) := rfl

theorem ceilQ96_le_iff {q p : ℕ} : ceilQ96 q ≤ p ↔ q ≤ p * 2 ^ 32 := by
  unfold ceilQ96
  omega

section InRange

variable {t : ℤ} (hmin : -887272 ≤ t) (hmax : t ≤ 887272)

include hmin hmax

theorem two_pow_le_priceQ128 : 2 ^ 64 ≤ priceQ128 t := by
  have ha : t.natAbs ≤ 887272 := by omega
  unfold priceQ128
  split
  · calc 2 ^ 64 ≤ (2 ^ 256 - 1) / 2 ^ 128 := by norm_num
      _ ≤ (2 ^ 256 - 1) / Reference.ratio t.natAbs :=
        Nat.div_le_div_left (ratio_le _) ((Nat.zero_le _).trans_lt (lt_ratio ha))
  · exact (lt_ratio ha).le

/-- The price of tick `t` is `sqrt(1.0001) ^ t` for both signs of `t`. -/
theorem abs_logQ128_priceQ128_sub_le : |logQ128 (priceQ128 t) - t * logSqrt| ≤ 42 / 2 ^ 64 := by
  have ha : t.natAbs ≤ 887272 := by omega
  have hbig := two_pow_le_priceQ128 hmin hmax
  have hratio := abs_logQ128_ratio_add_le ha
  unfold priceQ128 at hbig ⊢
  split
  case isTrue hpos =>
    have hcast : (t.natAbs : ℝ) = t := by rw [Nat.cast_natAbs, abs_of_pos hpos]
    rw [if_pos hpos] at hbig
    have hround := abs_log_natDiv_sub_le hbig
    have hones : |log (2 ^ 256 - 1 : ℕ) - 256 * log 2| ≤ 1 / 2 ^ 64 := by
      have hpow : (256 : ℝ) * log 2 = log (2 ^ 256) := by rw [log_pow]; norm_num
      rw [hpow]
      refine abs_log_sub_log_le ?_ ?_ ?_ <;> norm_num
    rw [hcast] at hratio
    unfold logQ128 at hratio ⊢
    rw [abs_le] at hround hones hratio ⊢
    constructor <;> linarith [hround.1, hround.2, hones.1, hones.2, hratio.1, hratio.2]
  case isFalse hnonpos =>
    have hcast : (t.natAbs : ℝ) = -t := by
      rw [Nat.cast_natAbs, abs_of_nonpos (not_lt.mp hnonpos), Int.cast_neg]
    rw [hcast, neg_mul, ← sub_eq_add_neg] at hratio
    exact hratio.trans (by norm_num)

/-- A price is decided by its logarithm, where the logarithms are further apart than the roundings. -/
theorem price_le_of_logQ128 {p : ℕ} (hp : 0 < p) (h : t * logSqrt + 42 / 2 ^ 64 ≤ logQ96 p) :
    Reference.price t ≤ p := by
  have hbig := two_pow_le_priceQ128 hmin hmax
  have hlog := abs_le.mp (abs_logQ128_priceQ128_sub_le hmin hmax)
  rw [price_eq_ceilQ96, ceilQ96_le_iff, ← logQ128_le_logQ128_iff (by omega) (by omega), logQ128_mul_two_pow hp]
  linarith [hlog.2]

theorem lt_price_of_logQ128 {p : ℕ} (hp : 0 < p) (h : logQ96 p < t * logSqrt - 42 / 2 ^ 64) :
    p < Reference.price t := by
  have hbig := two_pow_le_priceQ128 hmin hmax
  have hlog := abs_le.mp (abs_logQ128_priceQ128_sub_le hmin hmax)
  rw [← not_le, price_eq_ceilQ96, ceilQ96_le_iff, ← logQ128_le_logQ128_iff (by omega) (by omega),
    logQ128_mul_two_pow hp, not_le]
  linarith [hlog.1]

end InRange

end Sys2Proof.Proofs.PriceLogarithm

/-! ### The estimated logarithm of a price (41_price_to_tick.md rules R104 to R108) -/

namespace Sys2Proof.Proofs.LogarithmEstimate

open Real Sys2Proof.Proofs.BitLength Sys2Proof.Proofs.RealLogarithm

/-! #### Squarings -/

/-- The range of the working value before and after every squaring (rule R106). -/
def Normal (r : ℕ) : Prop := 2 ^ 127 ≤ r ∧ r < 2 ^ 128

/-- What a squaring can do: extract the bit `b` and shift the square by as much more. -/
theorem squareStep_cases {rf : ℕ × ℕ} (h : Normal rf.1) (bit : ℕ) :
    ∃ b, Reference.squareStep rf bit = (rf.1 * rf.1 / 2 ^ (127 + b), rf.2 + b * 2 ^ bit) ∧
      Normal (rf.1 * rf.1 / 2 ^ (127 + b)) := by
  obtain ⟨hmin, hmax⟩ := h
  have hsq_min : 2 ^ 127 * 2 ^ 127 ≤ rf.1 * rf.1 := Nat.mul_le_mul hmin hmin
  have hsq_max : rf.1 * rf.1 < 2 ^ 128 * 2 ^ 128 := Nat.mul_lt_mul'' hmax hmax
  by_cases hbit : 2 ^ 128 ≤ rf.1 * rf.1 / 2 ^ 127
  · have hhalf : rf.1 * rf.1 / 2 ^ 127 / 2 = rf.1 * rf.1 / 2 ^ (127 + 1) := by
      rw [Nat.div_div_eq_div_mul, pow_succ 2 127]
    refine ⟨1, ?_, by omega, by omega⟩
    rw [← hhalf, one_mul]
    exact if_pos hbit
  · refine ⟨0, ?_, by omega, by omega⟩
    rw [zero_mul]
    exact if_neg hbit

/-- The logarithm, in units of `1 / 2^64`, that a working value and a fraction stand for when the bits from `bit` on are
done. -/
noncomputable def remaining (bit : ℕ) (rf : ℕ × ℕ) : ℝ := rf.2 * log 2 + 2 ^ bit * logQ127 rf.1

/-- A squaring doubles the working value's logarithm and moves its integer part to the fraction. -/
theorem abs_remaining_squareStep_sub_le {rf : ℕ × ℕ} (h : Normal rf.1) (bit : ℕ) :
    |remaining bit (Reference.squareStep rf bit) - remaining (bit + 1) rf| ≤ 2 ^ bit / 2 ^ 64 := by
  obtain ⟨b, hstep, hnormal⟩ := squareStep_cases h bit
  have hr : (rf.1 : ℝ) ≠ 0 := Nat.cast_ne_zero.mpr (lt_of_lt_of_le (by norm_num) h.1).ne'
  have hround := abs_log_natDiv_sub_le (le_trans (by norm_num) hnormal.1)
  have hsq : log (rf.1 * rf.1 : ℕ) = 2 * log rf.1 := by rw [Nat.cast_mul, log_mul hr hr, two_mul]
  rw [hsq, log_natCast_two_pow, Nat.cast_add, Nat.cast_ofNat] at hround
  have hdiff : remaining bit (Reference.squareStep rf bit) - remaining (bit + 1) rf =
      2 ^ bit * (log (rf.1 * rf.1 / 2 ^ (127 + b) : ℕ) - (2 * log rf.1 - (127 + b) * log 2)) := by
    rw [hstep]
    unfold remaining logQ127
    push_cast
    ring
  rw [hdiff, abs_mul, abs_of_pos (by positivity), div_eq_mul_one_div]
  gcongr

/-- The `n` squarings for the bits from `bit + n - 1` down to `bit`. -/
theorem abs_remaining_foldl_sub_le {n bit : ℕ} {rf : ℕ × ℕ} (h : Normal rf.1) :
    Normal ((List.range' bit n).reverse.foldl Reference.squareStep rf).1 ∧
    |remaining bit ((List.range' bit n).reverse.foldl Reference.squareStep rf) - remaining (bit + n) rf| ≤
      (2 ^ (bit + n) - 2 ^ bit) / 2 ^ 64 := by
  induction n generalizing bit with
  | zero => simpa using h
  | succ n ih =>
    obtain ⟨hnormal, hclose⟩ := ih (bit := bit + 1)
    simp only [List.range'_succ, List.reverse_cons, List.foldl_append, List.foldl_cons, List.foldl_nil]
    rw [Nat.add_right_comm] at hclose
    have hlast := abs_remaining_squareStep_sub_le hnormal bit
    obtain ⟨b, hstep, hnormal'⟩ := squareStep_cases hnormal bit
    refine ⟨by rw [hstep]; exact hnormal', ?_⟩
    have hsum : (2 ^ (bit + (n + 1)) - 2 ^ bit : ℝ) / 2 ^ 64 =
        2 ^ bit / 2 ^ 64 + (2 ^ (bit + n + 1) - 2 ^ (bit + 1)) / 2 ^ 64 := by ring
    rw [hsum]
    exact (abs_sub_le _ _ _).trans (add_le_add hlast hclose)

theorem logQ127_bounds {r : ℕ} (h : Normal r) : 0 ≤ logQ127 r ∧ logQ127 r ≤ log 2 := by
  obtain ⟨hmin, hmax⟩ := h
  have hmin' : (2 : ℝ) ^ 127 ≤ r := by exact_mod_cast hmin
  have hmax' : (r : ℝ) ≤ 2 ^ 128 := by exact_mod_cast hmax.le
  have hlow := log_le_log (by positivity) hmin'
  have hhigh := log_le_log (by linarith [show (0 : ℝ) < 2 ^ 127 by positivity]) hmax'
  rw [log_pow] at hlow hhigh
  push_cast at hlow hhigh
  unfold logQ127
  constructor <;> linarith

/-- The fourteen bits fall short of the exact fraction by less than the last of them, `2^50`, but for roundings. -/
theorem fraction_bounds {x : ℕ} (hx : x ≠ 0) :
    2 ^ 64 * logQ127 (Reference.normalised x) - 2 ^ 50 * log 2 - 1 ≤ Reference.fraction x * log 2 ∧
    Reference.fraction x * log 2 ≤ 2 ^ 64 * logQ127 (Reference.normalised x) + 1 := by
  obtain ⟨hnormal, hclose⟩ := abs_remaining_foldl_sub_le (n := 14) (bit := 50)
    (rf := (Reference.normalised x, 0)) (normalised_bounds hx)
  obtain ⟨hmin, hmax⟩ := logQ127_bounds hnormal
  unfold Reference.fraction
  generalize (List.range' 50 14).reverse.foldl Reference.squareStep (Reference.normalised x, 0) = rf at *
  unfold remaining at hclose
  rw [abs_le] at hclose
  norm_num at hclose ⊢
  constructor <;> linarith [hclose.1, hclose.2]

/-! #### The integer part -/

/-- The normalisation divides by the power of two that the bit length names (rule R104). -/
theorem abs_logQ127_normalised_sub_le {x : ℕ} (hx : x ≠ 0) :
    |logQ127 (Reference.normalised x) - (log x - Nat.log2 x * log 2)| ≤ 1 / 2 ^ 64 := by
  have hbig := (normalised_bounds hx).1
  unfold Reference.normalised logQ127 at *
  generalize Nat.log2 x = m at *
  split
  case isTrue hright =>
    obtain ⟨d, rfl⟩ : ∃ d, m = 127 + d := ⟨m - 127, by omega⟩
    rw [if_pos hright, Nat.add_sub_cancel_left] at *
    have hround := abs_log_natDiv_sub_le (le_trans (by norm_num) hbig)
    rw [log_natCast_two_pow] at hround
    refine (congrArg abs ?_).trans_le hround
    push_cast
    ring
  case isFalse hleft =>
    obtain ⟨d, hd⟩ : ∃ d, 127 = m + d := ⟨127 - m, by omega⟩
    have hreal : (127 : ℝ) = m + d := by exact_mod_cast hd
    have hexact : log (x * 2 ^ (127 - m) : ℕ) - 127 * log 2 - (log x - m * log 2) = 0 := by
      rw [show 127 - m = d by omega, Nat.cast_mul, log_mul (by exact_mod_cast hx) (by positivity),
        log_natCast_two_pow, hreal]
      ring
    rw [hexact, abs_zero]
    positivity

/-- P2T's `log_2` in Q64 is at most one unit of its last bit below the logarithm of the price, but for roundings. -/
theorem log2_mul_log_two_bounds {p : ℕ} (hp : 0 < p) :
    2 ^ 64 * logQ96 p - 2 ^ 50 * log 2 - 2 ≤ Reference.log2 p * log 2 ∧
    Reference.log2 p * log 2 ≤ 2 ^ 64 * logQ96 p + 2 := by
  have hx : p * 2 ^ 32 ≠ 0 := by positivity
  obtain ⟨hmin, hmax⟩ := fraction_bounds hx
  have hinteger := abs_le.mp (abs_logQ127_normalised_sub_le hx)
  rw [← logQ128_mul_two_pow hp]
  unfold Reference.log2 logQ128
  generalize p * 2 ^ 32 = x at *
  push_cast
  constructor <;> linarith [hinteger.1, hinteger.2]

/-! #### The estimated tick -/

/-- The estimate of the tick before rounding, rule R108's product taken as a Q128 number. -/
noncomputable def tickEstimate (p : ℕ) : ℝ := Reference.log2 p * Reference.sqrt10001 / 2 ^ 128

/-- As a logarithm the estimate is at most `log 2 / 2^14` too small, but for roundings. -/
theorem tickEstimate_mul_logSqrt_bounds {p : ℕ} (hp : 0 < p) (hlog : |Reference.log2 p| ≤ 2 ^ 70) :
    logQ96 p - log 2 / 2 ^ 14 - 0.0000002 ≤ tickEstimate p * logSqrt ∧
    tickEstimate p * logSqrt ≤ logQ96 p + 0.0000002 := by
  obtain ⟨hmin, hmax⟩ := log2_mul_log_two_bounds hp
  have hlog' : |(Reference.log2 p : ℝ)| ≤ 2 ^ 70 := by exact_mod_cast hlog
  have hbase : |Reference.log2 p * (Reference.sqrt10001 * logSqrt - 2 ^ 64 * log 2)| ≤
      2 ^ 70 * (2 ^ 64 * 0.000000002) := by
    rw [abs_mul]
    exact mul_le_mul hlog' abs_sqrt10001_mul_logSqrt_sub_le (abs_nonneg _) (by positivity)
  obtain ⟨hbase_min, hbase_max⟩ := abs_le.mp hbase
  unfold tickEstimate
  generalize (Reference.sqrt10001 : ℝ) = s at *
  constructor <;> linarith

end Sys2Proof.Proofs.LogarithmEstimate

/-! ### P2T gives the greatest tick whose price is at most the input (41_price_to_tick.md rule R114) -/

namespace Sys2Proof.Proofs.GreatestTick

open Real Sys2Proof.Machine Sys2Proof.Proofs.PriceToTick Sys2Proof.Proofs.TickResponses
  Sys2Proof.Proofs.PriceResponses Sys2Proof.Proofs.RealLogarithm Sys2Proof.Proofs.PriceLogarithm
  Sys2Proof.Proofs.LogarithmEstimate

/-! #### The candidates around the estimate -/

/-- `TICK_LOW_ERR` is more than one hundredth of a tick (rule R109). -/
theorem tickLow_add_le (p : ℕ) : Reference.tickLow p + 0.01 ≤ tickEstimate p := by
  have hfloor : Reference.tickLow p * 2 ^ 128 ≤ Reference.log2 p * Reference.sqrt10001 - Reference.tickLowErr :=
    Int.ediv_mul_le _ (by positivity)
  have hreal : (Reference.tickLow p : ℝ) * 2 ^ 128 ≤
      Reference.log2 p * Reference.sqrt10001 - Reference.tickLowErr := by exact_mod_cast hfloor
  have herr : (0.01 : ℝ) * 2 ^ 128 ≤ Reference.tickLowErr := by norm_num [Reference.tickLowErr]
  rw [tickEstimate, le_div_iff₀ (by positivity)]
  linarith

/-- `TICK_HIGH_ERR` is 0.85616 ticks, one hundredth more than the last fraction bit amounts to (rule R109). -/
theorem tickEstimate_add_lt (p : ℕ) : tickEstimate p + 0.85616 < Reference.tickHigh p + 1 := by
  have hfloor : Reference.log2 p * Reference.sqrt10001 + Reference.tickHighErr < (Reference.tickHigh p + 1) * 2 ^ 128 :=
    Int.lt_ediv_add_one_mul_self _ (by positivity)
  have hreal : (Reference.log2 p : ℝ) * Reference.sqrt10001 + Reference.tickHighErr <
      (Reference.tickHigh p + 1) * 2 ^ 128 := by exact_mod_cast hfloor
  have herr : (0.85616 : ℝ) * 2 ^ 128 ≤ Reference.tickHighErr := by norm_num [Reference.tickHighErr]
  rw [← lt_sub_iff_add_lt, tickEstimate, div_lt_iff₀ (by positivity)]
  linarith

section InRange

variable {p : Word} (hp : priceInRange Config.romImage p = true)

include hp

theorem price_pos : 0 < p.toNat := by
  obtain ⟨hmin, -⟩ := PriceToTick.price_bounds hp
  omega

theorem abs_log2_le : |Reference.log2 p.toNat| ≤ 2 ^ 70 := by
  obtain ⟨hmin, hmax⟩ := log2_bounds hp
  rw [abs_le]
  omega

/-- No tick up to `tickLow` has too large a price. -/
theorem price_le_of_le_tickLow {u : ℤ} (hmin : -887272 ≤ u) (hmax : u ≤ 887272)
    (hu : u ≤ Reference.tickLow p.toNat) :
    Reference.price u ≤ p.toNat := by
  have hreal : (u : ℝ) ≤ Reference.tickLow p.toNat := by exact_mod_cast hu
  have hcandidate : (u : ℝ) + 0.01 ≤ tickEstimate p.toNat := by linarith [tickLow_add_le p.toNat]
  obtain ⟨hstep, -⟩ := logSqrt_bounds
  have hscaled := mul_le_mul_of_nonneg_right hcandidate (by linarith : 0 ≤ logSqrt)
  obtain ⟨-, hestimate⟩ := tickEstimate_mul_logSqrt_bounds (price_pos hp) (abs_log2_le hp)
  refine price_le_of_logQ128 hmin hmax (price_pos hp) ?_
  rw [add_mul] at hscaled
  linarith

/-- Every tick beyond `tickHigh` has too large a price. -/
theorem lt_price_of_tickHigh_lt {u : ℤ} (hmin : -887272 ≤ u) (hmax : u ≤ 887272)
    (hu : Reference.tickHigh p.toNat < u) :
    p.toNat < Reference.price u := by
  have hreal : (Reference.tickHigh p.toNat : ℝ) + 1 ≤ u := by exact_mod_cast hu
  have hcandidate : tickEstimate p.toNat + 0.85616 ≤ u := by linarith [tickEstimate_add_lt p.toNat]
  obtain ⟨hstep, -⟩ := logSqrt_bounds
  have hscaled := mul_le_mul_of_nonneg_right hcandidate (by linarith : 0 ≤ logSqrt)
  obtain ⟨hestimate, -⟩ := tickEstimate_mul_logSqrt_bounds (price_pos hp) (abs_log2_le hp)
  refine lt_price_of_logQ128 hmin hmax (price_pos hp) ?_
  rw [add_mul] at hscaled
  linarith [log_two_lt_d9]

/-! #### The chosen tick -/

/-- The chosen tick's price is at most the input. -/
theorem price_tick_le : Reference.price (Reference.tick p.toNat) ≤ p.toNat := by
  obtain ⟨hmin, hmax⟩ := tick_bounds hp
  obtain ⟨-, htick⟩ | ⟨-, hle, htick⟩ | ⟨-, -, htick⟩ := tick_cases p.toNat
  · exact price_le_of_le_tickLow hp hmin (by omega) htick.le
  · rwa [htick]
  · exact price_le_of_le_tickLow hp hmin (by omega) htick.le

/-- Every greater tick's price is above the input: the first one either is beyond `tickHigh`, or is `tickHigh` and was
rejected. -/
theorem lt_price_of_tick_lt {u : ℤ} (hmax : u ≤ 887272) (hu : Reference.tick p.toNat < u) :
    p.toNat < Reference.price u := by
  obtain ⟨hmin, -⟩ := tick_bounds hp
  rcases lt_or_ge (Reference.tickHigh p.toNat) u with hbeyond | hwithin
  · exact lt_price_of_tickHigh_lt hp (by omega) hmax hbeyond
  · obtain ⟨heq, htick⟩ | ⟨-, -, htick⟩ | ⟨hsucc, hlt, htick⟩ := tick_cases p.toNat
    · omega
    · omega
    · rwa [show u = Reference.tickHigh p.toNat by omega]

end InRange

/-- Settles O28: the error bounds of rule R109 cover the fourteen-bit logarithm and every rounding of both
directions, so the greatest tick is one of the candidates, and the choice between them is by the price itself. -/
theorem p2TIsGreatestTickBelow : Obligations.P2TIsGreatestTickBelow := by
  intro p hp t
  have ht : t = Reference.tick p.toNat := p2tOp_result_toInt hp
  obtain ⟨hmin, hmax⟩ := tick_bounds hp
  rw [ht, t2pOp_result_toNat hmin (by omega)]
  refine ⟨hmin, by omega, price_tick_le hp, fun u hu humax => ?_⟩
  rw [t2pOp_result_toNat (by omega) humax]
  exact lt_price_of_tick_lt hp humax hu

end Sys2Proof.Proofs.GreatestTick

/-! ### The responses of RDC (42_rom_read.md rule R131) -/

namespace Sys2Proof.Proofs.RomResponses

open Sys2Proof.Machine Sys2Proof.Laws Sys2Proof.Safety Sys2Proof.Proofs.RomRead

/-- Whatever the instruction, the oldest request is answered with its operation's response and nothing else changes. -/
theorem exec_of_inflight_cons {s : State} {slot : Slot} {rest : List Slot} (i : Instr)
    (hqueue : s.inflight = slot :: rest) :
    exec i s = .next (answered s rest (opResponse s.rom i)) := by
  rw [exec_eq_answer, answer_cons s _ hqueue]
  rfl

/-- Of the integers the spec lists in decimal, `MIN_TICK` alone is negative. -/
theorem romValue_neg_iff (i : Fin 27) : Reference.romValue i.val < 0 ↔ i.val = 20 := by
  revert i; decide

/-- Settles O29: the response depends on the ROM and the index alone, and the ROM holds the listed values. -/
theorem rdcRespondsRomEntry : Obligations.RdcRespondsRomEntry := by
  intro s slot rest idx opd hrom hqueue hidx
  have hresponse : opResponse s.rom (.rdc idx opd) = Reference.rdc idx.toNat := by
    rw [hrom]
    exact rdcOp_eq_reference hidx
  refine ⟨?_, romValue_neg_iff ⟨idx.toNat, Nat.lt_succ_of_le hidx⟩⟩
  rw [exec_of_inflight_cons _ hqueue, hresponse, Reference.rdc]

end Sys2Proof.Proofs.RomResponses

/-! ### Which request gets which status, and what an error does (60_exceptions.md rules R140 to R146) -/

namespace Sys2Proof.Proofs.ErrorResponses

open Sys2Proof.Machine Sys2Proof.Laws Sys2Proof.Safety Sys2Proof.Proofs.Fields Sys2Proof.Proofs.Refinement

/-! #### Whatever the ROM holds, an error has no partial result -/

theorem t2pOp_result_of_not_ok {rom : Vector Word 27} {t : Int} (h : (t2pOp rom t).status ≠ .ok) :
    (t2pOp rom t).result = 0#256 := by
  unfold t2pOp at h ⊢
  split_ifs at h ⊢
  · exact absurd rfl h
  · rfl

/-- A sub-operation's error would be handed up with the result 0 as well (rule R145). -/
theorem resolve_result_of_not_ok {rom : Vector Word 27} {p : Word} {tickLow tickHigh : Tick32}
    (h : (resolve rom p tickLow tickHigh).status ≠ .ok) : (resolve rom p tickLow tickHigh).result = 0#256 := by
  simp only [resolve] at h ⊢
  split_ifs at h ⊢
  · exact absurd rfl h
  · rfl
  · exact absurd rfl h
  · exact absurd rfl h

theorem p2tOp_result_of_not_ok {rom : Vector Word 27} {p : Word} (h : (p2tOp rom p).status ≠ .ok) :
    (p2tOp rom p).result = 0#256 := by
  unfold p2tOp at h ⊢
  split_ifs at h ⊢
  · exact resolve_result_of_not_ok h
  · rfl

theorem rdcOp_result_of_not_ok {rom : Vector Word 27} {idx : BitVec 8} (h : (rdcOp rom idx).status ≠ .ok) :
    (rdcOp rom idx).result = 0#256 := by
  unfold rdcOp at h ⊢
  cases hread : romRead rom idx with
  | some v => rw [hread] at h; exact absurd rfl h
  | none => rfl

theorem respondTo_result_of_not_ok {rom : Vector Word 27} {r : Request} (h : (respondTo rom r).status ≠ .ok) :
    (respondTo rom r).result = 0#256 := by
  unfold respondTo at h ⊢
  cases hdecode : decode r with
  | error e => rfl
  | ok i =>
    rw [hdecode] at h
    cases i with
    | t2p opd => exact t2pOp_result_of_not_ok h
    | p2t opd => exact p2tOp_result_of_not_ok h
    | rdc idx opd => exact rdcOp_result_of_not_ok h

/-- Settles O35: the response is that of the oldest request, and the log is the only field it goes into. -/
theorem errorsChangeNothingElse : Obligations.ErrorsChangeNothingElse := by
  intro s slot rest htaken hqueue
  exact ⟨respondTo s.rom slot.req, step_of_taken s hqueue htaken, respondTo_result_of_not_ok,
    fun _ => ⟨rfl, rfl, rfl, rfl, rfl⟩⟩

/-! #### Each error has one cause -/

theorem reference_t2p_status (t : Int) :
    (Reference.t2p t).status = if 887272 < t.natAbs then .tickOutOfRange else .ok := by
  have hrange : Reference.maxTick < (t.natAbs : Int) ↔ 887272 < t.natAbs := by unfold Reference.maxTick; omega
  simp only [Reference.t2p, hrange]
  exact apply_ite Response.status _ _ _

theorem reference_p2t_status (p : Nat) : (Reference.p2t p).status =
    if p < 4295128739 ∨ 1461446703485210103287273052203988822378723970342 ≤ p then .priceOutOfRange else .ok := by
  unfold Reference.p2t Reference.minSqrtRatio Reference.maxSqrtRatio
  split_ifs
  · omega
  · rfl
  · rfl
  · omega

theorem reference_rdc_status (idx : Nat) : (Reference.rdc idx).status = .ok := rfl

/-- TICK_OUT_OF_RANGE is raised by T2P alone (rule R140). -/
theorem refResponse_tickOutOfRange_iff (i : Instr) :
    (refResponse i).status = .tickOutOfRange ↔ ∃ opd, i = .t2p opd ∧ 887272 < opd.toInt.natAbs := by
  cases i with
  | t2p opd => simp [refResponse, reference_t2p_status]
  | p2t opd => simp [refResponse, reference_p2t_status, ite_eq_iff]
  | rdc idx opd => simp [refResponse, reference_rdc_status]

/-- PRICE_OUT_OF_RANGE is raised by P2T alone (rule R141). -/
theorem refResponse_priceOutOfRange_iff (i : Instr) :
    (refResponse i).status = .priceOutOfRange ↔ ∃ opd, i = .p2t opd ∧
      (opd.toNat < 4295128739 ∨ 1461446703485210103287273052203988822378723970342 ≤ opd.toNat) := by
  cases i with
  | t2p opd => simp [refResponse, reference_t2p_status, ite_eq_iff]
  | p2t opd => simp [refResponse, reference_p2t_status, or_iff_not_imp_left]
  | rdc idx opd => simp [refResponse, reference_rdc_status]

/-- No operation raises ILLEGAL_REQUEST (rule R142). -/
theorem refResponse_ne_illegalRequest (i : Instr) : (refResponse i).status ≠ .illegalRequest := by
  cases i with
  | t2p opd => simp [refResponse, reference_t2p_status, ite_eq_iff]
  | p2t opd => simp [refResponse, reference_p2t_status, ite_eq_iff]
  | rdc idx opd => simp [refResponse, reference_rdc_status]

/-- Settles O34: the status is that of `Reference.exec`. A request that does not decode gets ILLEGAL_REQUEST before any
range check (rule R146), and one that decodes gets the status of its operation. -/
theorem statusOfEveryRequest : Obligations.StatusOfEveryRequest := by
  refine ⟨⟨rfl, rfl, rfl, rfl⟩, fun r => ?_⟩
  -- The three causes share the case split on `decode r`; the last clause needs none.
  refine and_assoc.mp (and_assoc.mp ⟨?_, respondTo_result_of_not_ok⟩)
  rw [respondTo_eq_reference]
  cases hdecode : decode r with
  | error e => simp [reference_exec_of_error hdecode, Reference.illegal]
  | ok i =>
    simp [reference_exec_of_ok hdecode, refResponse_tickOutOfRange_iff, refResponse_priceOutOfRange_iff,
      refResponse_ne_illegalRequest]

end Sys2Proof.Proofs.ErrorResponses

/-! ### Reset and the two channels (70_reset_and_hazards.md rules R160, R163 to R165) -/

namespace Sys2Proof.Proofs.Handshake

open Sys2Proof.Machine Sys2Proof.Laws Sys2Proof.Safety Sys2Proof.Proofs.ResponsePorts Sys2Proof.Proofs.RomContents

/-! #### The respond part of an edge, as a state -/

/-- The response the next edge takes, if any (rule R164). -/
def takenResponse (s : State) : Option Response := if s.rspTaken then s.offered else none

/-- The requests in flight once the next edge has answered. -/
def remaining (s : State) : List Slot := if s.rspTaken then s.inflight.tail else s.inflight

/-- `s` once the next edge has answered, before it closes. -/
def afterResponse (s : State) : State :=
  { s with inflight := remaining s, log := s.log ++ ((takenResponse s).map Event.respond).toList }

@[simp] theorem afterResponse_inflight (s : State) : (afterResponse s).inflight = remaining s := rfl

@[simp] theorem afterResponse_log (s : State) :
    (afterResponse s).log = s.log ++ ((takenResponse s).map Event.respond).toList := rfl

@[simp] theorem delivered_nil : deliveredResponses [] = [] := rfl

@[simp] theorem accepted_nil : acceptedRequests [] = [] := rfl

@[simp] theorem delivered_responds (o : Option Response) :
    deliveredResponses (o.map Event.respond).toList = o.toList := by
  cases o <;> rfl

@[simp] theorem accepted_responds (o : Option Response) : acceptedRequests (o.map Event.respond).toList = [] := by
  cases o <;> rfl

theorem rspValid_of_rspTaken {s : State} (htaken : s.rspTaken = true) : s.rspValid = true :=
  (Bool.and_eq_true_iff.mp htaken).2

theorem rspTaken_of_rspReady_eq_false {s : State} (hready : s.pins.rspReady = false) : s.rspTaken = false := by
  simp [State.rspTaken, hready]

theorem afterResponse_of_taken {s : State} {slot : Slot} {rest : List Slot} (hqueue : s.inflight = slot :: rest)
    (htaken : s.rspTaken = true) : afterResponse s = answered s rest (respondTo s.rom slot.req) := by
  have hoffered := offered_of_rspValid (rspValid_of_rspTaken htaken) hqueue
  simp [afterResponse, remaining, takenResponse, answered, htaken, hqueue, hoffered]

theorem afterResponse_of_not_taken {s : State} (htaken : s.rspTaken = false) : afterResponse s = s := by
  simp [afterResponse, remaining, takenResponse, htaken]

/-! #### The two kinds of edge -/

theorem step_of_rst {s : State} (hrst : s.pins.rst = true) : step s = .next s.resetEdge := by
  simp [step, hrst]

/-- An edge with `rst = 0` answers and then closes, whether or not it takes a response. -/
theorem step_of_no_rst {s : State} (hrst : s.pins.rst = false) : step s = .next (s.closeEdge (afterResponse s)) := by
  rcases step_cases s with ⟨hrst', -⟩ | ⟨-, htaken, slot, rest, hqueue, -⟩ | ⟨-, htaken, hstep⟩
  · simp [hrst] at hrst'
  · rw [afterResponse_of_taken hqueue htaken]
    exact step_of_taken s hqueue htaken
  · rw [afterResponse_of_not_taken htaken]
    exact hstep

theorem reqReady_of_rst {s : State} (hrst : s.pins.rst = true) : s.reqReady = false := by
  simp [State.reqReady, phaseNow_of_rst s hrst]

theorem rspValid_of_rst {s : State} (hrst : s.pins.rst = true) : s.rspValid = false := by
  simp [State.rspValid, phaseNow_of_rst s hrst]

theorem rst_of_rspValid {s : State} (hvalid : s.rspValid = true) : s.pins.rst = false :=
  rst_of_phaseNow_run s ((rspValid_iff s).mp hvalid).1

theorem accepted_of_reqReady_eq_false {s : State} (hready : s.reqReady = false) : s.accepted = none := by
  simp [State.accepted, hready]

theorem takenResponse_of_rst {s : State} (hrst : s.pins.rst = true) : takenResponse s = none := by
  simp [takenResponse, State.rspTaken, rspValid_of_rst hrst]

/-! #### What an edge does to the queue and to the two channels -/

theorem map_req_tick (q : List Slot) : (q.map Slot.tick).map Slot.req = q.map Slot.req := List.map_map

theorem map_req_newSlot (fresh : Nat) (o : Option Request) :
    (o.map (newSlot fresh)).toList.map Slot.req = o.toList := by
  cases o <;> rfl

/-- An edge with `rst = 0` removes the request it answers, appends the one it accepts and keeps the others in order. -/
theorem requests_step {s t : State} (hrst : s.pins.rst = false) (h : step s = .next t) :
    t.inflight.map Slot.req = (remaining s).map Slot.req ++ s.accepted.toList := by
  rw [step_of_no_rst hrst] at h
  cases h
  rw [closeEdge_inflight, List.map_append, map_req_tick, map_req_newSlot, afterResponse_inflight]

/-- No edge delivers any other response, a reset edge none at all. -/
theorem delivered_step {s t : State} (h : step s = .next t) :
    deliveredResponses t.log = deliveredResponses s.log ++ (takenResponse s).toList := by
  cases hrst : s.pins.rst with
  | true =>
    rw [step_of_rst hrst] at h
    cases h
    simp [takenResponse_of_rst hrst]
  | false =>
    rw [step_of_no_rst hrst] at h
    cases h
    simp

theorem acceptedRequests_step {s t : State} (h : step s = .next t) :
    acceptedRequests t.log = acceptedRequests s.log ++ s.accepted.toList := by
  cases hrst : s.pins.rst with
  | true =>
    rw [step_of_rst hrst] at h
    cases h
    simp [accepted_of_reqReady_eq_false (reqReady_of_rst hrst)]
  | false =>
    rw [step_of_no_rst hrst] at h
    cases h
    simp

/-- Settles O38: the reset edge is `resetEdge`; any other edge keeps all requests but the one it answers. -/
theorem resetAloneDropsRequests : Obligations.ResetAloneDropsRequests := by
  refine ⟨fun s hrst => ?_, fun s t hrst h => ?_⟩
  · have hstep := step_of_rst hrst
    refine ⟨reqReady_of_rst hrst, rspValid_of_rst hrst, s.resetEdge, hstep, rfl, rfl, rfl, ?_⟩
    rw [delivered_step hstep, takenResponse_of_rst hrst, Option.toList_none, List.append_nil]
  · rw [requests_step hrst h]
    exact List.prefix_append _ _

/-! #### What an edge reads of the pins -/

section PinsCongr

variable {s : State} {ins : List Pins}

theorem phaseNow_withInputs (hrst : ({ s with inputs := ins } : State).pins.rst = s.pins.rst) :
    ({ s with inputs := ins } : State).phaseNow = s.phaseNow := by
  simp only [State.phaseNow, hrst]

theorem reqReady_withInputs (hrst : ({ s with inputs := ins } : State).pins.rst = s.pins.rst) :
    ({ s with inputs := ins } : State).reqReady = s.reqReady := by
  simp only [State.reqReady, phaseNow_withInputs hrst]

theorem rspValid_withInputs (hrst : ({ s with inputs := ins } : State).pins.rst = s.pins.rst) :
    ({ s with inputs := ins } : State).rspValid = s.rspValid := by
  simp only [State.rspValid, State.headDue, phaseNow_withInputs hrst]

variable (hrst : ({ s with inputs := ins } : State).pins.rst = s.pins.rst)
  (hready : ({ s with inputs := ins } : State).pins.rspReady = s.pins.rspReady)

include hrst hready

theorem rspTaken_withInputs : ({ s with inputs := ins } : State).rspTaken = s.rspTaken := by
  simp only [State.rspTaken, hready, rspValid_withInputs hrst]

/-- The request channel has no say in which response is taken. -/
theorem takenResponse_withInputs : takenResponse { s with inputs := ins } = takenResponse s := by
  simp only [takenResponse, State.offered, rspTaken_withInputs hrst hready, rspValid_withInputs hrst]

/-- Of the present pins an edge reads `rst`, `rsp_ready` and the request it accepts. -/
theorem step_withInputs (haccepted : ({ s with inputs := ins } : State).accepted = s.accepted)
    (htail : ins.tail = s.inputs.tail) : step { s with inputs := ins } = step s := by
  cases hcase : s.pins.rst with
  | true =>
    rw [step_of_rst hcase, step_of_rst (hrst.trans hcase)]
    simp only [State.resetEdge, htail]
  | false =>
    rw [step_of_no_rst hcase, step_of_no_rst (hrst.trans hcase)]
    simp only [State.closeEdge, afterResponse, remaining, takenResponse_withInputs hrst hready,
      rspTaken_withInputs hrst hready, phaseNow_withInputs hrst, haccepted, htail]

end PinsCongr

theorem accepted_of_not_handshake {s : State} (h : (s.pins.reqValid && s.reqReady) = false) : s.accepted = none := by
  simp [State.accepted, h]

/-- Settles O40: the edge appends what `accepted` samples; without an acceptance `req_cmd` and `req_opd` are not read; and
the response taken does not depend on the request channel. -/
theorem acceptanceSamplesThePins : Obligations.AcceptanceSamplesThePins := by
  refine ⟨fun s hvalid hready hrst => ?_, fun s p ps cmd opd hinputs hidle => ?_,
    fun s t u p ps hinputs ht hu => ?_⟩
  · have haccepted := (accepted_some_iff s _).mpr ⟨hvalid, hready, rfl⟩
    have hstep := step_of_no_rst hrst
    have hrequests := requests_step hrst hstep
    have hlog := acceptedRequests_step hstep
    rw [haccepted] at hrequests hlog
    exact ⟨_, hstep, hrequests, hlog⟩
  · have hpins := pins_of_inputs s hinputs
    have hrst : ({ s with inputs := { p with reqCmd := cmd, reqOpd := opd } :: ps } : State).pins.rst = s.pins.rst := by
      rw [hpins]; rfl
    refine step_withInputs hrst (by rw [hpins]; rfl) ?_ (by rw [hinputs]; rfl)
    rw [accepted_of_not_handshake (s := s) (by rw [hpins]; exact hidle)]
    exact accepted_of_not_handshake (by rw [reqReady_withInputs hrst]; exact hidle)
  · have hpins := pins_of_inputs s hinputs
    have htaken : takenResponse { s with inputs := { p with reqValid := false } :: ps } = takenResponse s :=
      takenResponse_withInputs (by rw [hpins]; rfl) (by rw [hpins]; rfl)
    rw [delivered_step ht, delivered_step hu, htaken]

/-! #### The offered response -/

/-- A valid response is that of the oldest request. -/
theorem exists_offered_of_rspValid {s : State} (hvalid : s.rspValid = true) :
    ∃ slot rest, s.inflight = slot :: rest ∧ s.offered = some (respondTo s.rom slot.req) := by
  obtain ⟨-, slot, rest, hqueue, -⟩ := (rspValid_iff s).mp hvalid
  exact ⟨slot, rest, hqueue, offered_of_rspValid hvalid hqueue⟩

/-- A response that an edge does not take is still due, and still the same, after it (rule R164). -/
theorem offered_step_of_not_taken {s t : State} (hvalid : s.rspValid = true) (hready : s.pins.rspReady = false)
    (h : step s = .next t) (hrst : t.pins.rst = false) : t.rspValid = true ∧ t.offered = s.offered := by
  obtain ⟨hphase, slot, rest, hqueue, hwait⟩ := (rspValid_iff s).mp hvalid
  have hrom := step_rom h
  have hrun : t.phase = .run := by rw [step_phase h (rst_of_rspValid hvalid), hphase]; rfl
  rw [step_of_no_rst (rst_of_rspValid hvalid), afterResponse_of_not_taken (rspTaken_of_rspReady_eq_false hready)] at h
  have hqueue' : t.inflight = slot.tick :: (rest.map Slot.tick ++ (s.accepted.map (newSlot s.fresh)).toList) := by
    cases h
    simp [hqueue]
  have hvalid' : t.rspValid = true :=
    (rspValid_iff t).mpr ⟨phaseNow_of_run t hrst hrun, _, _, hqueue', by simp [hwait]⟩
  refine ⟨hvalid', ?_⟩
  rw [offered_of_rspValid hvalid hqueue, offered_of_rspValid hvalid' hqueue', hrom, tick_req]

/-- Settles O41: the ports show the oldest request's response; an edge that does not take it keeps that request at the head
of the queue, and one that does delivers the response on offer. -/
theorem offeredResponseIsStable : Obligations.OfferedResponseIsStable := by
  refine ⟨fun s hvalid => ?_, fun s t hvalid hready h hrst => ?_, fun s htaken => ?_⟩
  · obtain ⟨slot, rest, hqueue, hoffered⟩ := exists_offered_of_rspValid hvalid
    exact ⟨slot, rest, hqueue, hoffered, rspStatus_of_offered hoffered, rspResult_of_offered hoffered⟩
  · obtain ⟨hvalid', hoffered⟩ := offered_step_of_not_taken hvalid hready h hrst
    obtain ⟨_, _, -, hbefore⟩ := exists_offered_of_rspValid hvalid
    have hafter := hoffered.trans hbefore
    refine ⟨hvalid', ?_, ?_, ?_⟩
    · rw [rspStatus_of_offered hbefore, rspStatus_of_offered hafter]
    · rw [rspResult_of_offered hbefore, rspResult_of_offered hafter]
    · rw [requests_step (rst_of_rspValid hvalid) h, remaining, rspTaken_of_rspReady_eq_false hready]
      exact List.prefix_append _ _
  · have hvalid := rspValid_of_rspTaken htaken
    have hrst := rst_of_rspValid hvalid
    obtain ⟨slot, rest, hqueue, hoffered⟩ := exists_offered_of_rspValid hvalid
    have hstep := step_of_no_rst hrst
    refine ⟨slot, rest, _, _, hqueue, hoffered, hstep, ?_, rspStatus_of_offered hoffered,
      rspResult_of_offered hoffered, ?_⟩
    · rw [delivered_step hstep, takenResponse, htaken, if_pos rfl, hoffered, Option.toList_some]
    · rw [requests_step hrst hstep, remaining, htaken, if_pos rfl, hqueue, List.tail_cons]
      exact List.prefix_append _ _

/-! #### Back pressure -/

/-- `req_ready` is a function of the queue before the edge: a place that the edge itself frees does not count. -/
theorem reqReady_of_full {s : State} (hfull : Config.maxInflight ≤ s.inflight.length) : s.reqReady = false := by
  simp [State.reqReady, Nat.not_lt.mpr hfull]

/-- Settles O42, by what `req_ready` means and by what an edge adds to the accepted requests. -/
theorem backPressure : Obligations.BackPressure := by
  refine ⟨fun s hrun => ?_, fun s t hfull h => ?_⟩
  · rw [reqReady_iff]
    exact and_iff_right hrun
  · rw [acceptedRequests_step h, accepted_of_reqReady_eq_false (reqReady_of_full hfull), Option.toList_none,
      List.append_nil]

end Sys2Proof.Proofs.Handshake

/-! ### Encoding and decoding are inverse (30_encoding.md rules R60 to R63, R68) -/

namespace Sys2Proof.Proofs.RoundTrip

open Sys2Proof.Machine Sys2Proof.Laws.EncodedFields Sys2Proof.Proofs.Fields

/-! #### Fields that decode, the converse of `decode_ok_cases` -/

section DecodeOfFields

variable {r : Request} (hrsv : rsvField r.cmd = 0#16)

include hrsv

theorem decode_t2p (hop : opField r.cmd = 0x01#8) (hidx : idxField r.cmd = 0#8) : decode r = .ok (.t2p r.opd) := by
  simp [decode, hrsv, hop, hidx]

theorem decode_p2t (hop : opField r.cmd = 0x02#8) (hidx : idxField r.cmd = 0#8) : decode r = .ok (.p2t r.opd) := by
  simp [decode, hrsv, hop, hidx]

theorem decode_rdc (hop : opField r.cmd = 0x03#8) (hidx : romIndexOk (idxField r.cmd) = true) :
    decode r = .ok (.rdc (idxField r.cmd) r.opd) := by
  simp [decode, hrsv, hop, hidx]

end DecodeOfFields

/-- Settles O3: the fields of a command word are those it was made from, and they select the operation's own arm of
`decode`. -/
theorem decodeOfEncodeIsIdentity : Obligations.DecodeOfEncodeIsIdentity := by
  intro i hwf
  cases i with
  | t2p opd => exact decode_t2p (rsvField_commandWord _ _) (opField_commandWord _ _) (idxField_commandWord _ _)
  | p2t opd => exact decode_p2t (rsvField_commandWord _ _) (opField_commandWord _ _) (idxField_commandWord _ _)
  | rdc idx opd =>
    have hidx : idxField (encode (.rdc idx opd)).cmd = idx := idxField_commandWord _ _
    have hdecode := decode_rdc (r := encode (.rdc idx opd)) (rsvField_commandWord _ _) (opField_commandWord _ _)
      (by rw [hidx]; exact hwf)
    rwa [hidx] at hdecode

/-! #### The command word as a number -/

theorem commandWord_toNat (op idx : BitVec 8) : (commandWord op idx).toNat = idx.toNat * 256 + op.toNat := by
  have hop := op.isLt
  have hidx := idx.isLt
  have hsum : idx.toNat <<< 8 ||| op.toNat = idx.toNat * 256 + op.toNat := by
    rw [← Nat.shiftLeft_add_eq_or_of_lt hop, Nat.shiftLeft_eq]
  rw [commandWord, BitVec.toNat_or, BitVec.toNat_shiftLeft, BitVec.toNat_setWidth_of_le (by decide),
    BitVec.toNat_setWidth_of_le (by decide), Nat.mod_eq_of_lt (by rw [Nat.shiftLeft_eq]; omega), hsum]

/-- With `RSV` zero, `OP` and `IDX` are the whole command word. -/
theorem commandWord_fields {cmd : BitVec 32} (hrsv : rsvField cmd = 0#16) :
    commandWord (opField cmd) (idxField cmd) = cmd := by
  have hzero : cmd.toNat / 65536 = 0 := by rw [← rsvField_toNat, hrsv]; rfl
  apply BitVec.eq_of_toNat_eq
  rw [commandWord_toNat, opField_toNat, idxField_toNat]
  omega

/-- Settles O4: `decode` accepts a request by its three fields, and these are all of its command word. -/
theorem encodeOfDecodeIsIdentity : Obligations.EncodeOfDecodeIsIdentity := by
  intro r i h
  refine ⟨wellFormed_of_decode h, ?_⟩
  obtain ⟨hrsv, hcases⟩ := decode_ok_cases h
  have hcmd := commandWord_fields hrsv
  rcases hcases with ⟨hop, hidx, rfl⟩ | ⟨hop, hidx, rfl⟩ | ⟨hop, -, rfl⟩
  · rw [hop, hidx] at hcmd
    rw [encode, hcmd]
  · rw [hop, hidx] at hcmd
    rw [encode, hcmd]
  · rw [hop] at hcmd
    rw [encode, hcmd]

/-! #### Words and lines written out -/

/-- Settles O2, by running the decoder on each word. -/
theorem writtenWordsDecode : Obligations.WrittenWordsDecode := by
  unfold Obligations.WrittenWordsDecode
  decide

/-- An `RDC` line has the command word of `encode` (rules R61, R73). -/
theorem assembleRdc_eq {idx : Nat} (h : idx ≤ 255) :
    assembleRdc idx = some ⟨commandWord 0x03#8 (BitVec.ofNat 8 idx), 0#256⟩ := by
  have hcmd : BitVec.ofNat 32 (idx <<< 8 ||| 0x03) = commandWord 0x03#8 (BitVec.ofNat 8 idx) := by
    have hsum : idx <<< 8 ||| 3 = idx * 256 + 3 := by
      rw [← Nat.shiftLeft_add_eq_or_of_lt (by decide), Nat.shiftLeft_eq]
    apply BitVec.eq_of_toNat_eq
    rw [commandWord_toNat, hsum]
    simp only [BitVec.toNat_ofNat]
    omega
  rw [assembleRdc, if_pos h, hcmd]

/-- Settles O50: a number that fits its port is read back from it, and the fields of an `RDC` line are those of its
command word. -/
theorem linesAssembleToTheirFields : Obligations.LinesAssembleToTheirFields := by
  refine ⟨fun t hmin hmax => ?_, fun p hp => ?_, fun idx hidx => ?_, fun cmd opd hcmd hopd => ?_⟩
  · exact ⟨encode (.t2p (BitVec.ofInt 256 t)), if_pos ⟨hmin, hmax⟩, decodeOfEncodeIsIdentity _ rfl,
      BitVec.toInt_ofInt_eq_self (by decide) hmin hmax⟩
  · exact ⟨encode (.p2t (BitVec.ofNat 256 p)), if_pos hp, decodeOfEncodeIsIdentity _ rfl, Nat.mod_eq_of_lt hp⟩
  · refine ⟨_, assembleRdc_eq hidx, rfl, opField_commandWord _ _, ?_, rsvField_commandWord _ _⟩
    rw [idxField_commandWord]
    exact Nat.mod_eq_of_lt (Nat.lt_succ_of_le hidx)
  · exact ⟨_, if_pos ⟨hcmd, hopd⟩, Nat.mod_eq_of_lt hcmd, Nat.mod_eq_of_lt hopd⟩

end Sys2Proof.Proofs.RoundTrip

/-! ### The operations and the edges that run them (30_encoding.md rule R69, 70_reset_and_hazards.md rule R170) -/

namespace Sys2Proof.Proofs.Edges

open Sys2Proof.Machine Sys2Proof.Laws Sys2Proof.Proofs.RomResponses Sys2Proof.Proofs.Handshake

/-! #### What an operation does to the state -/

/-- Settles O9: an operation only answers, and there is nothing to answer. -/
theorem meaningWithoutRequestStops : Obligations.MeaningWithoutRequestStops := by
  intro i s hqueue
  rw [exec_eq_answer, answer_nil s _ hqueue]

/-- Settles O10: an operation answers, which touches the queue and the log alone. -/
theorem operationsFrame : Obligations.OperationsFrame := by
  intro i s t h
  rw [exec_eq_answer] at h
  obtain ⟨slot, rest, hqueue, rfl⟩ := answer_next h
  rw [hqueue]
  exact ⟨rfl, ⟨_, rfl⟩, fun _ => rfl, rfl, rfl, rfl⟩

theorem rdcOp_of_index_gt (rom : Vector Word 27) {idx : BitVec 8} (h : 26 < idx.toNat) :
    rdcOp rom idx = illegalResponse := by
  have hread : romRead rom idx = none := Vector.getElem?_eq_none h
  rw [rdcOp, hread]

/-- Settles O30: the ROM has no entry for such an index, whatever it holds. -/
theorem rdcBeyondRomIsIllegal : Obligations.RdcBeyondRomIsIllegal := by
  intro s slot rest idx opd hqueue hidx
  rw [exec_of_inflight_cons _ hqueue, opResponse, rdcOp_of_index_gt _ hidx]
  rfl

/-! #### The edge around it -/

/-- Settles O6: the edge answers the oldest request as `exec` of its operation does; the fields that closing leaves are
those of `closeEdge`. -/
theorem stepRunsTheDecodedOperation : Obligations.StepRunsTheDecodedOperation := by
  intro s slot rest i hqueue hdecode htaken
  have hrun := ((rspTaken_iff s).mp htaken).2.1
  have hresponse : respondTo s.rom slot.req = opResponse s.rom i := by rw [respondTo, hdecode]
  refine ⟨?_, fun t => ⟨rfl, ?_, rfl, rfl, rfl, rfl⟩⟩
  · rw [step_of_taken s hqueue htaken, exec_of_inflight_cons i hqueue, hresponse]
  · rw [closeEdge_phase, hrun, Phase.next]

/-- Settles O7: each of the three kinds of edge has a next state. -/
theorem everyEdgeAnswersNext : Obligations.EveryEdgeAnswersNext := by
  intro s
  rcases step_cases s with ⟨-, h⟩ | ⟨-, -, _, _, -, h⟩ | ⟨-, -, h⟩ <;> exact ⟨_, h⟩

theorem takenResponse_of_taken {s : State} {slot : Slot} {rest : List Slot} (hqueue : s.inflight = slot :: rest)
    (htaken : s.rspTaken = true) : takenResponse s = some (respondTo s.rom slot.req) := by
  rw [takenResponse, if_pos htaken]
  exact ResponsePorts.offered_of_rspValid (rspValid_of_rspTaken htaken) hqueue

/-- Rules R163 and R165: a request is accepted in phase Run, into a queue that is not full. -/
theorem run_and_room_of_accepted {s : State} {r : Request} (h : s.accepted = some r) :
    s.phaseNow = .run ∧ s.inflight.length < Config.maxInflight := by
  obtain ⟨-, hready, -⟩ := (accepted_some_iff s r).mp h
  exact (reqReady_iff s).mp hready

/-- Settles O36: the response delivered is a function of the ROM and the oldest request. -/
theorem responsesIgnoreContext : Obligations.ResponsesIgnoreContext := by
  intro s₁ s₂ t₁ t₂ a b r₁ r₂ hrom hqueue₁ hqueue₂ hreq htaken₁ htaken₂ hstep₁ hstep₂
  refine ⟨respondTo s₁.rom a.req, ?_, ?_⟩
  · rw [delivered_step hstep₁, takenResponse_of_taken hqueue₁ htaken₁, Option.toList_some]
  · rw [delivered_step hstep₂, takenResponse_of_taken hqueue₂ htaken₂, Option.toList_some, ← hrom, ← hreq]

/-- Settles O49: a platform starts as copies of `State.reset`, and a step writes one entry of the list of engines. -/
theorem instancesAreIndependent : Obligations.InstancesAreIndependent := by
  refine ⟨⟨?_, fun s hs => List.eq_of_mem_replicate hs⟩, fun p k s hk => ?_⟩
  · rw [Platform.reset, List.length_replicate]
    exact Nat.succ_pos _
  · obtain ⟨t, ht⟩ := everyEdgeAnswersNext s
    obtain ⟨hlt, -⟩ := List.getElem?_eq_some_iff.mp hk
    refine ⟨t, ⟨p.engines.set k t⟩, ht, ?_, List.getElem?_set_self hlt, fun j hj => List.getElem?_set_ne hj.symm⟩
    simp only [Platform.stepAt, hk, ht]

end Sys2Proof.Proofs.Edges

/-! ### Reset and warm-up (10_state.md rule R31, 70_reset_and_hazards.md rules R160, R161) -/

namespace Sys2Proof.Proofs.Warmup

open Sys2Proof.Machine Sys2Proof.Laws Sys2Proof.Proofs.Edges

theorem reqReady_of_phaseNow_ne_run {s : State} (h : s.phaseNow ≠ .run) : s.reqReady = false :=
  Bool.eq_false_iff.mpr fun hready => h ((reqReady_iff s).mp hready).1

theorem rspValid_of_phaseNow_ne_run {s : State} (h : s.phaseNow ≠ .run) : s.rspValid = false :=
  Bool.eq_false_iff.mpr fun hvalid => h ((rspValid_iff s).mp hvalid).1

/-- Settles O37: nothing is valid with an empty queue, and both outputs need phase Run. -/
theorem resetStateAndOutputs : Obligations.ResetStateAndOutputs := by
  refine ⟨rfl, rfl, rfl, Bool.eq_false_iff.mpr fun hvalid => ?_, fun s => ⟨phaseNow_of_rst s, fun hphase =>
    ⟨reqReady_of_phaseNow_ne_run hphase, rspValid_of_phaseNow_ne_run hphase⟩⟩⟩
  obtain ⟨-, slot, rest, hqueue, -⟩ := (rspValid_iff State.reset).mp hvalid
  cases hqueue

theorem warm_eq_run_iff (n : Nat) : Phase.warm n = .run ↔ n = 0 := by
  cases n <;> simp

/-- A run of one edge more is that edge and then the rest. -/
theorem exists_step_of_run_succ {k : Nat} {s u : State} (h : Sys2Proof.core.run (k + 1) s = .next u) :
    ∃ t, step s = .next t ∧ Sys2Proof.core.run k t = .next u := by
  obtain ⟨t, ht⟩ := everyEdgeAnswersNext s
  exact ⟨t, ht, (run_succ k s t ht).symm.trans h⟩

/-- Each edge with `rst = 0` counts one cycle of warm-up (assumption log 5). -/
theorem phaseNow_of_run_of_warm (k : Nat) : ∀ {n : Nat} {s t : State}, (∀ p ∈ s.inputs, p.rst = false) →
    s.phaseNow = Phase.warm n → Sys2Proof.core.run k s = .next t → t.phaseNow = Phase.warm (n - k) := by
  induction k with
  | zero =>
    intro n s t _ hphase hrun
    cases hrun
    exact hphase
  | succ k ih =>
    intro n s t hinputs hphase hrun
    obtain ⟨s', hstep, hrun'⟩ := exists_step_of_run_succ hrun
    have hinputs' : ∀ p ∈ s'.inputs, p.rst = false := fun p hp =>
      hinputs p (List.mem_of_mem_tail (step_inputs hstep ▸ hp))
    have hphase' : s'.phase = Phase.warm (n - 1) := by
      rw [step_phase hstep (pins_rst s hinputs), hphase, warm_next]
    rw [ih hinputs' (phaseNow_of_warm s' _ (pins_rst s' hinputs') hphase') hrun', Nat.sub_sub, Nat.add_comm 1 k]

/-- Settles O39: the phase of the first cycle with `rst = 0` is `Phase.warm RESET_CYCLES`, and each edge counts it down. -/
theorem warmupThenRun : Obligations.WarmupThenRun := by
  intro s hreset hinputs k t hrun
  have hstart : s.phaseNow = Phase.warm Config.resetCycles := by
    simp [State.phaseNow, pins_rst s hinputs, hreset]
  have hphase := phaseNow_of_run_of_warm k hinputs hstart hrun
  refine ⟨hphase, ?_⟩
  rw [State.reqReady, hphase, decide_eq_decide.mpr ((warm_eq_run_iff _).trans Nat.sub_eq_zero_iff_le)]

end Sys2Proof.Proofs.Warmup

/-! ### The engine's invariant (20_memory.md rule R44, 70_reset_and_hazards.md rules R165, R170) -/

namespace Sys2Proof.Proofs.Invariant

open Sys2Proof.Machine Sys2Proof.Laws Sys2Proof.Safety Sys2Proof.Proofs.Refinement Sys2Proof.Proofs.Handshake
  Sys2Proof.Proofs.Edges

/-! #### One transition more -/

theorem replay_reset {log : List Event} {q : List Request} (h : replay log = some q) :
    replay (log ++ [.reset]) = some [] := by
  simp [replay_append, h, replayStep]

theorem replay_respond {log : List Event} {r : Request} {q : List Request} (h : replay log = some (r :: q)) :
    replay (log ++ [.respond (Reference.exec r)]) = some q := by
  simp [replay_append, h, replayStep]

theorem replay_accept {log : List Event} {q : List Request} (r : Request) (h : replay log = some q)
    (hlen : q.length < Config.maxInflight) : replay (log ++ [.accept r]) = some (q ++ [r]) := by
  simp [replay_append, h, replayStep, hlen]

/-! #### The parts of an edge -/

/-- Settles O46: nothing has happened. -/
theorem engineInvAtReset : Obligations.EngineInvAtReset := ⟨rfl, Nat.zero_le _, fun _ => rfl, rfl⟩

/-- Dropping every request is rule R170's reset. -/
theorem engineInv_resetEdge {s : State} (h : EngineInv s) : EngineInv s.resetEdge where
  rom_constant := h.rom_constant
  queue_bounded := Nat.zero_le _
  idle_outside_run _ := rfl
  log_is_run := replay_reset h.log_is_run

/-- Answering the oldest request is rule R170's respond, since the response is `Exec` of it. -/
theorem engineInv_afterResponse {s : State} (h : EngineInv s) : EngineInv (afterResponse s) := by
  cases htaken : s.rspTaken with
  | false => rwa [afterResponse_of_not_taken htaken]
  | true =>
    obtain ⟨-, -, slot, rest, hqueue, -⟩ := (rspTaken_iff s).mp htaken
    have hlog := h.log_is_run
    have hbound := h.queue_bounded
    rw [hqueue, List.map_cons] at hlog
    rw [hqueue, List.length_cons] at hbound
    rw [afterResponse_of_taken hqueue htaken, h.rom_constant, respondTo_eq_reference]
    exact ⟨h.rom_constant, Nat.le_of_succ_le hbound,
      fun hphase => absurd (h.idle_outside_run hphase) (by simp [hqueue]), replay_respond hlog⟩

theorem closeEdge_requests (s t : State) :
    (s.closeEdge t).inflight.map Slot.req = t.inflight.map Slot.req ++ s.accepted.toList := by
  rw [closeEdge_inflight, List.map_append, map_req_tick, map_req_newSlot]

theorem remaining_length_le (s : State) : (remaining s).length ≤ s.inflight.length := by
  unfold remaining
  split
  · exact (List.tail_sublist _).length_le
  · exact le_rfl

/-- Phase Run is left by reset alone. -/
theorem phaseNow_of_next_ne_run {s : State} (hrst : s.pins.rst = false) (h : s.phaseNow.next ≠ .run) :
    s.phase ≠ .run ∧ s.phaseNow ≠ .run :=
  ⟨fun hrun => h (by rw [phaseNow_of_run s hrst hrun]; rfl), fun hrun => h (by rw [hrun]; rfl)⟩

/-- Closing the edge ages the queue and, where there is place for one, does rule R170's accept. -/
theorem engineInv_closeEdge {s t : State} (h : EngineInv t) (hrst : s.pins.rst = false) (hphase : t.phase = s.phase)
    (hlen : t.inflight.length ≤ s.inflight.length) : EngineInv (s.closeEdge t) := by
  cases haccepted : s.accepted with
  | none =>
    refine ⟨h.rom_constant, ?_, fun hnext => ?_, ?_⟩
    · simpa [haccepted] using h.queue_bounded
    · have hidle := h.idle_outside_run (hphase ▸ (phaseNow_of_next_ne_run hrst hnext).1)
      simp [haccepted, hidle]
    · rw [closeEdge_requests, closeEdge_log, haccepted]
      simpa using h.log_is_run
  | some r =>
    obtain ⟨hrun, hroom⟩ := run_and_room_of_accepted haccepted
    have hroom' := hlen.trans_lt hroom
    refine ⟨h.rom_constant, ?_, fun hnext => absurd hrun (phaseNow_of_next_ne_run hrst hnext).2, ?_⟩
    · simpa [haccepted] using hroom'
    · rw [closeEdge_requests, closeEdge_log, haccepted]
      exact replay_accept r h.log_is_run (by simpa using hroom')

/-- Settles O45: a reset edge is a reset, any other edge is respond, if it takes a response, and then accept, if it
accepts a request. -/
theorem engineInvIsKept : Obligations.EngineInvIsKept := by
  intro s t h hstep
  cases hrst : s.pins.rst with
  | true =>
    rw [step_of_rst hrst] at hstep
    cases hstep
    exact engineInv_resetEdge h
  | false =>
    rw [step_of_no_rst hrst] at hstep
    cases hstep
    exact engineInv_closeEdge (engineInv_afterResponse h) hrst rfl (remaining_length_le s)

/-! #### The order of respond and accept -/

/-- Settles O48: the log holds respond and then accept, and with a request in flight and place for one more the two
commute; a queue of one place is full while it holds the request that is answered. -/
theorem acceptAndRespondCommute : Obligations.AcceptAndRespondCommute := by
  intro s h htaken
  obtain ⟨-, -, slot, rest, hqueue, -⟩ := (rspTaken_iff s).mp htaken
  have hstep := step_of_taken s hqueue htaken
  rw [h.rom_constant, respondTo_eq_reference] at hstep
  have hrun := (engineInvIsKept s _ h hstep).log_is_run
  refine ⟨slot, rest, _, hqueue, hstep, fun r haccepted => ?_, fun haccepted => ?_, fun hone => ?_⟩
  · obtain ⟨-, hroom⟩ := run_and_room_of_accepted haccepted
    have hlog : (s.closeEdge (answered s rest (Reference.exec slot.req))).log =
        s.log ++ [.respond (Reference.exec slot.req), .accept r] := by simp [haccepted]
    rw [hlog] at hrun
    have hcommute : replay (s.log ++ [.accept r, .respond (Reference.exec slot.req)]) =
        replay (s.log ++ [.respond (Reference.exec slot.req), .accept r]) := by
      rw [replay_append, replay_append, h.log_is_run]
      exact accept_respond_commute r _ (by simp [hqueue]) (by simpa using hroom)
    exact ⟨hlog, hrun, hcommute.trans hrun⟩
  · exact ⟨by simp [haccepted], hrun⟩
  · exact accepted_of_reqReady_eq_false (reqReady_of_full (by simp [hone, hqueue]))

end Sys2Proof.Proofs.Invariant

/-! ### How long a request waits (70_reset_and_hazards.md rules R166, R171) -/

namespace Sys2Proof.Proofs.Latency

open Sys2Proof.Machine Sys2Proof.Laws Sys2Proof.Safety Sys2Proof.Proofs.Refinement Sys2Proof.Proofs.RomContents
  Sys2Proof.Proofs.Handshake Sys2Proof.Proofs.Edges Sys2Proof.Proofs.Warmup

/-! #### Latencies -/

/-- The latency is that of the opcode: `decode` reads nothing else of a request than its command word. -/
theorem latencyOf_opd (cmd : BitVec 32) (o₁ o₂ : Word) : latencyOf ⟨cmd, o₁⟩ = latencyOf ⟨cmd, o₂⟩ := by
  unfold latencyOf decode
  split_ifs <;> rfl

theorem latencyOf_pos (r : Request) : 1 ≤ latencyOf r := by
  unfold latencyOf
  split <;> exact Nat.succ_pos _

/-! #### The queue over one edge -/

theorem inflight_step {s t : State} (hrst : s.pins.rst = false) (h : step s = .next t) :
    t.inflight = (remaining s).map Slot.tick ++ (s.accepted.map (newSlot s.fresh)).toList := by
  rw [step_of_no_rst hrst] at h
  cases h
  rfl

theorem rspTaken_of_head_waiting {s : State} {slot : Slot} {rest : List Slot} (hqueue : s.inflight = slot :: rest)
    (hwait : slot.wait ≠ 0) : s.rspTaken = false := by
  simp [State.rspTaken, State.rspValid, State.headDue, hqueue, hwait]

/-- In `u` a request `r` still has `n` edges to wait at least, and of `older`, the requests ahead of it when `start`
responses had been delivered, those answered since have left the front. -/
def WaitsBehind (older : List Request) (r : Request) (start n : Nat) (u : State) : Prop :=
  ∃ (gone : List Request) (ahead : List Slot) (slot : Slot) (later : List Slot),
    older = gone ++ ahead.map Slot.req ∧ u.inflight = ahead ++ slot :: later ∧ slot.req = r ∧ n ≤ slot.wait ∧
      (deliveredResponses u.log).length = start + gone.length

/-- An edge takes a response only of a request ahead of one that still waits. -/
theorem remaining_of_waiting {s : State} {ahead later : List Slot} {slot : Slot}
    (hqueue : s.inflight = ahead ++ slot :: later) (hwait : slot.wait ≠ 0) :
    ∃ gone ahead', ahead = gone ++ ahead' ∧ remaining s = ahead' ++ slot :: later ∧
      (takenResponse s).toList.length = gone.length := by
  cases htaken : s.rspTaken with
  | false => exact ⟨[], ahead, rfl, by simp [remaining, htaken, hqueue], by simp [takenResponse, htaken]⟩
  | true =>
    cases ahead with
    | nil =>
      rw [rspTaken_of_head_waiting hqueue hwait] at htaken
      cases htaken
    | cons a ahead =>
      exact ⟨[a], ahead, rfl, by simp [remaining, htaken, hqueue], by
        rw [takenResponse_of_taken hqueue htaken, Option.toList_some, List.length_singleton, List.length_singleton]⟩

/-- An edge before the request is due leaves it one edge less to wait. -/
theorem WaitsBehind.step {older : List Request} {r : Request} {start n : Nat} {s t : State}
    (h : WaitsBehind older r start (n + 1) s) (hrst : s.pins.rst = false) (hstep : step s = .next t) :
    WaitsBehind older r start n t := by
  obtain ⟨gone, ahead, slot, later, holder, hqueue, hreq, hwait, hdelivered⟩ := h
  obtain ⟨new, ahead', rfl, hremaining, htaken⟩ := remaining_of_waiting hqueue (Nat.ne_zero_of_lt hwait)
  have hinflight := inflight_step hrst hstep
  refine ⟨gone ++ new.map Slot.req, ahead'.map Slot.tick, slot.tick,
    later.map Slot.tick ++ (s.accepted.map (newSlot s.fresh)).toList, ?_, ?_, hreq, Nat.le_sub_one_of_lt hwait, ?_⟩
  · rw [holder, map_req_tick, List.map_append, List.append_assoc]
  · rw [hinflight, hremaining, List.map_append, List.map_cons, List.append_assoc, List.cons_append]
  · rw [delivered_step hstep, List.length_append, hdelivered, htaken, List.length_append, List.length_map,
      Nat.add_assoc]

theorem pins_mem_take {s : State} (h : s.inputs ≠ []) (k : Nat) : s.pins ∈ s.inputs.take (k + 1) := by
  obtain ⟨p, ps, hinputs⟩ := List.exists_cons_of_ne_nil h
  rw [pins_of_inputs s hinputs, hinputs, List.take_succ_cons]
  exact List.mem_cons_self

theorem pins_rst_of_take {s : State} {k : Nat} (h : ∀ p ∈ s.inputs.take (k + 1), p.rst = false) :
    s.pins.rst = false := by
  by_cases hinputs : s.inputs = []
  · rw [pins_of_no_inputs s hinputs]
    rfl
  · exact h _ (pins_mem_take hinputs k)

/-- What is said of the next `k + 1` pins holds, after an edge, of the next `k`. -/
theorem forall_take_inputs_step {P : Pins → Prop} {s t : State} {k : Nat} (hstep : step s = .next t)
    (h : ∀ p ∈ s.inputs.take (k + 1), P p) : ∀ p ∈ t.inputs.take k, P p := by
  intro p hp
  rw [step_inputs hstep] at hp
  cases hinputs : s.inputs with
  | nil => simp [hinputs] at hp
  | cons q qs =>
    rw [hinputs, List.tail_cons] at hp
    exact h p (by rw [hinputs, List.take_succ_cons]; exact List.mem_cons_of_mem q hp)

/-- `WaitsBehind` over as many edges as the request has to wait. -/
theorem WaitsBehind.run {older : List Request} {r : Request} {start n : Nat} (k : Nat) : ∀ {t u : State},
    WaitsBehind older r start (n + k) t → (∀ p ∈ t.inputs.take k, p.rst = false) →
      Sys2Proof.core.run k t = .next u → WaitsBehind older r start n u := by
  induction k with
  | zero =>
    intro t u h _ hrun
    cases hrun
    exact h
  | succ k ih =>
    intro t u h hrst hrun
    obtain ⟨t', hstep, hrun'⟩ := exists_step_of_run_succ hrun
    exact ih (h.step (pins_rst_of_take hrst) hstep) (forall_take_inputs_step hstep hrst) hrun'

/-- A request enters the queue behind all others, with its latency to wait. -/
theorem waitsBehind_of_accepted {s t : State} {r : Request} (haccepted : s.accepted = some r)
    (hstep : step s = .next t) :
    WaitsBehind ((remaining s).map Slot.req) r (deliveredResponses t.log).length (latencyOf r) t := by
  have hrst := rst_of_phaseNow_run s (run_and_room_of_accepted haccepted).1
  refine ⟨[], (remaining s).map Slot.tick, newSlot s.fresh r, [], ?_, ?_, rfl, Nat.le_add_right _ _, rfl⟩
  · rw [map_req_tick, List.nil_append]
  · rw [inflight_step hrst hstep, haccepted]
    rfl

/-- Settles O43: for as many edges as the latency the new request waits behind the older ones, and a head that waits is
not offered. -/
theorem latencyIsALowerBound : Obligations.LatencyIsALowerBound := by
  refine ⟨latencyOf_opd, latencyOf_pos, fun r => ?_, fun s t u r k haccepted hstep hrst hk hrun => ?_⟩
  · unfold latencyOf
    rcases decode r with e | (opd | opd | ⟨idx, opd⟩) <;> rfl
  · have hrequests := requests_step (rst_of_phaseNow_run s (run_and_room_of_accepted haccepted).1) hstep
    have hstart := waitsBehind_of_accepted haccepted hstep
    rw [← Nat.sub_add_cancel hk.le] at hstart
    obtain ⟨gone, ahead, slot, later, holder, hqueue, hreq, hwait, hdelivered⟩ := hstart.run k hrst hrun
    have hwait' : slot.wait ≠ 0 := Nat.ne_zero_of_lt ((Nat.sub_pos_of_lt hk).trans_le hwait)
    refine ⟨gone, ahead, slot, later, ?_, hqueue, hreq, hdelivered, fun hahead => ?_⟩
    · rw [hrequests, holder, haccepted, Option.toList_some]
    · rw [hahead, List.nil_append] at hqueue
      simp [State.rspValid, State.headDue, hqueue, hwait']

/-! #### The host that keeps taking -/

/-- In phase Run an edge at which the host takes what is offered answers a due head. -/
theorem rspTaken_of_due {s : State} {slot : Slot} {rest : List Slot} (hrst : s.pins.rst = false)
    (hready : s.pins.rspReady = true) (hphase : s.phase = .run) (hqueue : s.inflight = slot :: rest)
    (hwait : slot.wait = 0) : s.rspTaken = true :=
  (rspTaken_iff s).mpr ⟨hready, phaseNow_of_run s hrst hphase, slot, rest, hqueue, hwait⟩

/-- Settles O44, by induction on the edges the head still waits: each brings it one edge nearer, and the edge at which it
is due answers it. -/
theorem headIsEventuallyAnswered : Obligations.HeadIsEventuallyAnswered := by
  intro s slot rest hrom hphase hqueue hlen hpins
  induction hwait : slot.wait generalizing s slot rest with
  | zero =>
    rw [hwait] at hlen hpins
    obtain ⟨hrst, hready⟩ := hpins _ (pins_mem_take (List.ne_nil_of_length_pos hlen) _)
    have htaken := rspTaken_of_due hrst hready hphase hqueue hwait
    obtain ⟨t, hstep⟩ := everyEdgeAnswersNext s
    refine ⟨t, run_succ 0 s t hstep, ?_, ?_⟩
    · rw [delivered_step hstep, takenResponse_of_taken hqueue htaken, hrom, respondTo_eq_reference,
        Option.toList_some]
    · rw [requests_step hrst hstep, remaining, if_pos htaken, hqueue]
      exact List.prefix_append _ _
  | succ w ih =>
    rw [hwait] at hlen hpins
    obtain ⟨hrst, -⟩ := hpins _ (pins_mem_take (List.ne_nil_of_length_pos (Nat.zero_lt_of_lt hlen)) _)
    have htaken := rspTaken_of_head_waiting hqueue (hwait ▸ Nat.succ_ne_zero w)
    obtain ⟨t, hstep⟩ := everyEdgeAnswersNext s
    have hqueue' := inflight_step hrst hstep
    rw [remaining, htaken, if_neg Bool.false_ne_true, hqueue, List.map_cons, List.cons_append] at hqueue'
    have hwait' : slot.tick.wait = w := by rw [tick_wait, hwait, Nat.add_sub_cancel]
    have hphase' : t.phase = .run := by rw [step_phase hstep hrst, phaseNow_of_run s hrst hphase, Phase.next]
    obtain ⟨u, hrun, hdelivered, hprefix⟩ := ih t slot.tick _ ((step_rom hstep).trans hrom) hphase' hqueue'
      (by rw [hwait', step_inputs hstep, List.length_tail]; omega)
      (by rw [hwait']; exact forall_take_inputs_step hstep hpins) hwait'
    refine ⟨u, (run_succ _ s t hstep).trans hrun, ?_, ?_⟩
    · rw [hdelivered, delivered_step hstep, takenResponse, if_neg (by simp [htaken]), Option.toList_none,
        List.append_nil, tick_req]
    · rw [List.map_append, map_req_tick] at hprefix
      exact (List.prefix_append _ _).trans hprefix

end Sys2Proof.Proofs.Latency

/-! ### The end of a run (20_memory.md rule R51, 70_reset_and_hazards.md rule R169) -/

namespace Sys2Proof.Proofs.RunEnd

open Sys2Proof.Machine Sys2Proof.Laws Sys2Proof.Safety Sys2Proof.Proofs.Handshake

/-! #### The transitions that are allowed -/

theorem replayStep_accept_iff {cap : Nat} {q q' : List Request} {r : Request} :
    replayStep cap (some q) (.accept r) = some q' ↔ q.length < cap ∧ q' = q ++ [r] := by
  simp [replayStep, eq_comm]

theorem replayStep_respond_iff {cap : Nat} {q q' : List Request} {rsp : Response} :
    replayStep cap (some q) (.respond rsp) = some q' ↔ ∃ r, q = r :: q' ∧ rsp = Reference.exec r := by
  cases q <;> simp [replayStep, and_comm]

/-- After an event that is no transition nothing is. -/
theorem foldl_replayStep_none (cap : Nat) (events : List Event) : events.foldl (replayStep cap) none = none := by
  induction events with
  | nil => rfl
  | cons e events ih => exact ih

/-! #### The progress of a run and the queue -/

/-- What rule R170 makes of the progress of a run that began with `older` in flight and has led to the queue `q`. -/
structure Tracks (older q : List Request) (p : RunProgress) : Prop where
  /-- The queue is what is left of the older requests, then the run's own. -/
  queue : ∃ left, left <:+ older ∧ left.length = p.older ∧ q = left ++ p.waiting
  /-- Every own response is `Exec` of its request. -/
  taken_exec : ∀ x ∈ p.taken, x.2 = Reference.exec x.1
  /-- An own response was taken after all older ones (rule R51). -/
  older_of_taken : p.taken ≠ [] → p.older = 0

theorem tracks_start (older : List Request) : Tracks older older ⟨older.length, [], [], false⟩ where
  queue := ⟨older, List.suffix_rfl, rfl, (List.append_nil older).symm⟩
  taken_exec := by simp
  older_of_taken h := absurd rfl h

theorem Tracks.accept {older q : List Request} {p : RunProgress} (h : Tracks older q p) (r : Request) :
    Tracks older (q ++ [r]) (p.event (.accept r)) := by
  obtain ⟨left, hleft, hlen, rfl⟩ := h.queue
  exact ⟨⟨left, hleft, hlen, List.append_assoc left p.waiting [r]⟩, h.taken_exec, h.older_of_taken⟩

/-- The response is the run's own only if no older request is left. -/
theorem Tracks.respond {older q : List Request} {r : Request} {p : RunProgress} (h : Tracks older (r :: q) p) :
    Tracks older q (p.event (.respond (Reference.exec r))) := by
  obtain ⟨n, waiting, taken, dropped⟩ := p
  obtain ⟨⟨left, hleft, rfl, hqueue⟩, hexec, htaken⟩ := h
  cases left with
  | nil =>
    rw [List.nil_append] at hqueue
    subst hqueue
    refine ⟨⟨[], List.nil_suffix, rfl, rfl⟩, fun x hx => ?_, fun _ => rfl⟩
    rcases List.mem_append.mp hx with hx | hx
    · exact hexec x hx
    · rw [List.mem_singleton.mp hx]
  | cons a left =>
    have hnone : taken = [] := by
      by_contra hne
      exact Nat.succ_ne_zero _ (htaken hne)
    refine ⟨⟨left, (List.suffix_cons a left).trans hleft, rfl, (List.cons.inj hqueue).2⟩, hexec, fun hne => ?_⟩
    exact absurd hnone hne

theorem Tracks.reset {older q : List Request} {p : RunProgress} (h : Tracks older q p) :
    Tracks older [] (p.event .reset) where
  queue := ⟨[], List.nil_suffix, rfl, rfl⟩
  taken_exec := h.taken_exec
  older_of_taken _ := rfl

theorem Tracks.foldl {cap : Nat} {older : List Request} (events : List Event) : ∀ {q q' : List Request}
    {p : RunProgress}, Tracks older q p → events.foldl (replayStep cap) (some q) = some q' →
      Tracks older q' (events.foldl RunProgress.event p) := by
  induction events with
  | nil =>
    intro q q' p h hq
    cases hq
    exact h
  | cons e events ih =>
    intro q q' p h hq
    rw [List.foldl_cons] at hq
    cases hstep : replayStep cap (some q) e with
    | none =>
      rw [hstep, foldl_replayStep_none] at hq
      cases hq
    | some q₁ =>
      rw [hstep] at hq
      refine ih ?_ hq
      cases e with
      | accept r =>
        obtain ⟨-, rfl⟩ := replayStep_accept_iff.mp hstep
        exact h.accept r
      | respond rsp =>
        obtain ⟨r, rfl, rfl⟩ := replayStep_respond_iff.mp hstep
        exact h.respond
      | reset =>
        cases hstep
        exact h.reset

theorem tracks_runProgress {s : State} {before events : List Event} {older : List Request} (h : EngineInv s)
    (hlog : s.log = before ++ events) (hbefore : replay before = some older) :
    Tracks older (s.inflight.map Slot.req) (runProgress older.length events) := by
  have hrun := h.log_is_run
  rw [hlog, replay_append, hbefore] at hrun
  exact (tracks_start older).foldl events hrun

/-! #### Ended runs -/

/-- Settles O47: the responses taken are `Exec` of the requests that are the program, and with one of them taken neither an
older request nor an own one is left in the queue. -/
theorem endedRunDeliversExecInOrder : Obligations.EndedRunDeliversExecInOrder := by
  intro s before events older program h hlog hbefore hended
  obtain ⟨htaken, hwaiting, -⟩ := hended
  have htracks := tracks_runProgress h hlog hbefore
  refine ⟨?_, fun hprogram => ?_⟩
  · rw [endState, ← htaken, List.map_map]
    exact List.map_congr_left htracks.taken_exec
  · obtain ⟨left, -, hlen, hqueue⟩ := htracks.queue
    have hsome : (runProgress older.length events).taken ≠ [] := by
      intro hnone
      rw [hnone] at htaken
      exact hprogram htaken.symm
    rw [htracks.older_of_taken hsome] at hlen
    rw [List.eq_nil_of_length_eq_zero hlen, hwaiting] at hqueue
    exact List.map_eq_nil_iff.mp hqueue

/-- A run whose request a reset has dropped never ends, whatever happens later. -/
theorem not_runEnded_of_reset {n : Nat} {events : List Event} (hwaiting : (runProgress n events).waiting ≠ [])
    (later : List Event) (program : List Request) : ¬ runEnded n program (events ++ .reset :: later) := by
  rintro ⟨-, -, hdropped⟩
  rw [runProgress_append, List.foldl_cons, events_dropped later _ (by simp [hwaiting])] at hdropped
  cases hdropped

/-- Settles O53: what the run counts is the engine's queue, and a reset edge is a reset event. -/
theorem requestInFlightOrDroppedEndsNoRun : Obligations.RequestInFlightOrDroppedEndsNoRun := by
  intro s before events older h hlog hbefore
  obtain ⟨left, hleft, hlen, hqueue⟩ := (tracks_runProgress h hlog hbefore).queue
  refine ⟨?_, fun hwaiting program hended => hwaiting hended.2.1, fun hwaiting hrst => ?_⟩
  · rw [hqueue, ← hlen, ← List.suffix_iff_eq_drop.mp hleft]
  · exact ⟨s.resetEdge, step_of_rst hrst, by rw [resetEdge_log, hlog, List.append_assoc],
      not_runEnded_of_reset hwaiting⟩

end Sys2Proof.Proofs.RunEnd
